-- ==== Sys2Proof/Word.lean ====
section
/-! DEFINITION. The value types of 00_scope.md R8: bytes, byte strings and frequencies. -/

namespace Sys2Proof

/-- A byte: an unsigned 8-bit value, bit 7 the most significant (R8). -/
abbrev Byte := BitVec 8

/-- `Bytes`: a finite list of bytes, index 0 first (R8). -/
abbrev Bytes := List Byte

/-- `Q`: a non-negative rational; frequencies are `Q` (R8). -/
abbrev Freq := { q : Rat // 0 ≤ q }

end Sys2Proof
end

