-- ==== Sys2Proof/Config.lean ====
section
/-! DEFINITION. The constants of 00_scope.md R7, its parameters with their defaults, and the free values. A
constant or a parameter is no state of the block (10_state.md R37): a constant is a definition here, a parameter a
field of `Params`, which every meaning takes as an argument through `State.par`. What the spec leaves without any
value is an `opaque` constant. -/

namespace Sys2Proof

/-- The four error kinds of a host operation (60_exceptions.md R260). -/
inductive ErrKind where
  | configurationError
  | transportError
  | negativeAcknowledgement
  | payloadTooLarge
  deriving DecidableEq, Repr

/-- The pin part of BusConfig (10_state.md R22): which bit of the pin byte is which line, the idle level and
the output-enable mask. -/
structure Pins where
  /-- `SCL_MASK`. -/
  sclMask   : Byte
  /-- `SDA_O_MASK`. -/
  sdaOMask  : Byte
  /-- `SDA_I_MASK`. -/
  sdaIMask  : Byte
  /-- `IDLE_LEVEL`. -/
  idleLevel : Byte
  /-- `DIRECTION`. -/
  direction : Byte
  deriving DecidableEq, Repr

/-- A byte of a `PINSET` unit: a fixed one, or one of the two operands of its shape (30_encoding.md R94). -/
inductive PinPiece where
  | byte (b : Byte)
  | value
  | direction
  deriving DecidableEq, Repr

/-- The encoding of one `PINSET` unit, any function of its two operand bytes: the operands of a row have the row's
bytes, all others the layout's. Both are plain data; there are finitely many operands, so rows alone can say any
function. -/
structure PinEnc where
  layout : List PinPiece
  /-- Value byte, direction byte, and the unit's bytes for these two. -/
  rows   : List ((Byte × Byte) × Bytes)
  deriving DecidableEq, Repr

/-- `ENC` (30_encoding.md R96, D7): the encoding of each of the ten units. `WRITE_BYTE(b)` is a fixed head with `b`
appended, as 10_state.md R24 and 40_command_builder.md R137 say; the units without operands are any bytes. -/
structure Enc where
  idle           : PinEnc
  dataLow        : PinEnc
  clkDataLow     : PinEnc
  clkLowDataHigh : PinEnc
  /-- The head of `WRITE_BYTE(b)`. -/
  writeByte      : Bytes
  readBit        : Bytes
  readByte       : Bytes
  ack            : Bytes
  nack           : Bytes
  flush          : Bytes
  deriving DecidableEq, Repr

/-- `CE_CLOCK`, the Command Engine's function from requested to achieved clock (R7, D16). -/
inductive CeClock where
  /-- A function given as data: what the table lists, and the identity elsewhere. With no row, the default. -/
  | listed (rows : List (Freq × Freq))
  /-- Any function: `Config.ceClock`, of which nothing is known. -/
  | engine
  deriving DecidableEq, Repr

/-- The parameters of R7, those the table calls `parameter` and gives a default. `FREQ_MAX` has none. -/
structure Params where
  pins           : Pins
  enc            : Enc
  /-- `DRIVE_ZERO_MASK`. -/
  driveZeroMask  : Byte
  /-- `N_STOP_IDLE`: idle units closing the stop sequence. -/
  nStopIdle      : Nat
  /-- `POLL_RW`: the direction bit `poll` uses, true for read. -/
  pollRw         : Bool
  /-- `RX_BUDGET`: the `retryBudget` argument of every `receiveBytes` but the epilog's. -/
  rxBudget       : Nat
  /-- `RX_BUDGET_EPILOG`. -/
  rxBudgetEpilog : Nat
  /-- `ERR_EMPTY`: error kind of an empty payload or a read length below 1. -/
  errEmpty       : ErrKind
  /-- `CE_CLOCK`: achieved clock by requested clock. -/
  ceClock        : CeClock
  deriving DecidableEq, Repr

namespace Config

/-! ### Constants -/

/-- `ADDR_MAX`. -/
def addrMax : Nat := 0x7F
/-- `N_HOLD`: repetitions of each phase of the start condition. -/
def nHold : Nat := 4
/-- `N_STOP_HOLD`: repetitions of each low phase of the stop condition. -/
def nStopHold : Nat := 4
/-- `ATTEMPTS_MAX`: attempts of one `read`, `write` or `exchange`. -/
def attemptsMax : Nat := 3
/-- `POLL_ATTEMPTS`: attempts of one `poll`. -/
def pollAttempts : Nat := 1
/-- `RX_RESERVE`: receive-capacity bytes kept free in chunk sizing. -/
def rxReserve : Nat := 2
/-- `LEN_FIELD_BITS`: width of the read-count length field. -/
def lenFieldBits : Nat := 16
/-- `MAX_XCHG_RLEN`: the field's range divided by 3, minus one margin byte (42_operations.md R196). -/
def maxXchgRlen : Nat := 2 ^ lenFieldBits / 3 - 1
/-- `FREQ_SCALE`. -/
def freqScale : Freq := 3 / 2
/-- `REG_WIDTHS`: legal register-address prefix widths in bytes. -/
def regWidths : List Nat := [1, 2, 4]

/-! ### Parameters: the spec's defaults, most of them from general knowledge (notes/assumptions/10.md) -/

/-- Pins (GK3). PRESUMED. -/
def pins : Pins where
  sclMask   := 0x01
  sdaOMask  := 0x02
  sdaIMask  := 0x04
  idleLevel := 0xFF
  direction := 0x03

/-- The bytes of the four `PINSET` units in the table of R96: `80 vv dd`. PRESUMED. -/
def pinEnc : PinEnc := ⟨[.byte 0x80, .value, .direction], []⟩

/-- `ENC` (30_encoding.md R96, GK2). PRESUMED. -/
def enc : Enc where
  idle           := pinEnc
  dataLow        := pinEnc
  clkDataLow     := pinEnc
  clkLowDataHigh := pinEnc
  writeByte      := [0x11, 0x00, 0x00]
  readBit        := [0x22, 0x00]
  readByte       := [0x20, 0x00, 0x00]
  ack            := [0x13, 0x00, 0x00]
  nack           := [0x13, 0x00, 0xFF]
  flush          := [0x87]

/-- The parameters (GK4, GK5, GK6, GK11, D12, D16). PRESUMED. -/
def params : Params where
  pins           := pins
  enc            := enc
  driveZeroMask  := pins.sclMask ||| pins.sdaOMask ||| pins.sdaIMask
  nStopIdle      := 4
  pollRw         := true
  rxBudget       := 4
  rxBudgetEpilog := 1
  errEmpty       := .configurationError
  ceClock        := .listed []

/-! ### Free values -/

/-- `FREQ_MAX`: OPEN, no default (D19). Free value. -/
opaque freqMax : Freq

/-- `CE_CLOCK` where it is not given as data: any function (D16). Free value. -/
opaque ceClock : Freq → Freq

/-- What `FREQ` holds after a `terminate` (93 U12: any value), applied to a counter in State. Free value. -/
opaque freqAfterTerminate : Nat → Freq

/-- The byte a sampling unit produces: what the slave put on the line (93 U8, U19). Free value. -/
opaque freeReply : Nat → Byte

/-- The data-line level after a unit whose closing level the spec does not give. Free value. -/
opaque freeLevel : Nat → Bool

/-- How many bytes of a buffer were executed when its send failed or never returned: "The engine does not
learn how much of a failed buffer was executed" (20_memory.md R61). Free value. -/
opaque executedBytes : Nat → Nat

end Config

end Sys2Proof
end

