-- ==== Sys2Proof/Syntax.lean ====
section
/-! DEFINITION. The instructions: every row of spec/opcode_table.json a constructor of `Instr`, and the
ten command units (30_encoding.md R94). -/

namespace Sys2Proof

/-- The ten command units (30_encoding.md R94). The four `PINSET` units have no operand but those BusConfig gives
them (40_command_builder.md R131 to R134). -/
inductive CmdUnit where
  | idle
  | dataLow
  | clkDataLow
  | clkLowDataHigh
  | writeByte (b : Byte)
  | readBit
  | readByte
  | ack
  | nack
  | flush
  deriving DecidableEq, Repr

/-- The formats of 30_encoding.md R90. -/
inductive Format where
  | host
  | slave
  | command
  deriving DecidableEq, Repr

/-- One constructor per row of the opcode table. A handle argument is the `BASE` that `getSlave` returned
(30_encoding.md R91, R92). -/
inductive Instr where
  -- HOST (R91)
  | configure (busFrequency : Freq) (driveZeroRequired : Bool)
  | terminate
  | getSlave (address : Nat)
  | read (address : Nat) (n : Nat)
  | write (address : Nat) (bytes : Bytes)
  | exchange (address : Nat) (bytes : Bytes) (n : Nat)
  | poll (address : Nat)
  | flushOp
  | frequency
  | frequencyMax
  -- SLAVE (R92)
  | sConfigureRegister (handle : Nat) (bigEndian : Bool) (width : Nat)
  | sShiftAddress (handle : Nat) (offset : Nat)
  | sReadFrom (handle : Nat) (regAddr : Nat) (n : Nat)
  | sWriteTo (handle : Nat) (regAddr : Nat) (out : Bytes)
  | sRead (handle : Nat) (n : Nat)
  | sWrite (handle : Nat) (out : Bytes)
  | sExchange (handle : Nat) (out : Bytes) (n : Nat)
  | sPoll (handle : Nat)
  | sFlush (handle : Nat)
  -- CU (R94 to R96): `v` the pin value byte, `d` the direction byte
  | idle (v d : Byte)
  | dataLow (v d : Byte)
  | clkDataLow (v d : Byte)
  | clkLowDataHigh (v d : Byte)
  | writeByte (b : Byte)
  | readBit
  | flush
  | readByte
  | ack
  | nack
  -- TPL (R97): `a` and `r` are the fields of the address byte, `s` a number of read units
  | start
  | stop
  | wu (b : Byte)
  | ruAck
  | ruNack
  | prologCmd (a : BitVec 7) (r : Bool)
  | chunkMid (s : Nat)
  | chunkLast (s : Nat)
  deriving DecidableEq, Repr

/-- The format of a row. Units and templates reach the Command Engine in one byte stream. -/
def Instr.format : Instr → Format
  | .configure .. | .terminate | .getSlave .. | .read .. | .write .. | .exchange .. | .poll ..
  | .flushOp | .frequency | .frequencyMax => .host
  | .sConfigureRegister .. | .sShiftAddress .. | .sReadFrom .. | .sWriteTo .. | .sRead .. | .sWrite ..
  | .sExchange .. | .sPoll .. | .sFlush .. => .slave
  | .idle .. | .dataLow .. | .clkDataLow .. | .clkLowDataHigh .. | .writeByte .. | .readBit | .flush
  | .readByte | .ack | .nack | .start | .stop | .wu .. | .ruAck | .ruNack | .prologCmd .. | .chunkMid ..
  | .chunkLast .. => .command

end Sys2Proof
end

