-- ==== Sys2Proof/Machine/State.lean ====
section
/-! DEFINITION. The state of the machine: the block's registers (10_state.md R20 to R32), the external state
the spec names (R33, R34) and the model's own fields (the parameters of the run, the environment's answers, the
record of calls, the requests and responses). Plain data. -/

namespace Sys2Proof.Machine

/-! ### Why a step can stop -/

/-- The machine stops. -/
inductive Fault where
  /-- Raised by `step` in a state where a Command Engine call has not returned: the engine is stuck and has no
  step (20_memory.md R78, 93 U9). It is no error of the block and no result. Safe: nothing is claimed of it. -/
  | callNeverReturned
  deriving DecidableEq, Repr

/-- The model gives no meaning. All but the last are the spec's own refusals (93 part 1). -/
inductive Refusal where
  /-- Raised by every `HOST` and `SLAVE` operation issued while another is in progress (U1, R71, R304). Safe. -/
  | operationInProgress
  /-- Raised by `read` and `exchange`, and the handle operations that forward to them, when `CHUNK_SIZE ≤ 0`:
  the real loop would not end (U2, R145, R308). Safe. -/
  | chunkSizeNotPositive
  /-- Raised by `readFrom` and `writeTo` when the register address does not fit the width (U5, R243). Safe. -/
  | registerAddressTooWide
  /-- Raised by a `SLAVE` operation on a handle `getSlave` never returned (U17, R99 f). Safe. -/
  | unknownHandle
  /-- Raised by `step` on a request that holds no instruction: an unused selector or an unknown first byte
  (U17, R99 f). Safe. -/
  | illegalRequest
  /-- An instruction that has no meaning yet. Safe. -/
  | notModelled (mnemonic : String)
  deriving DecidableEq, Repr

/-! ### Registers -/

/-- `PHASE` (R26). -/
inductive Phase where
  | idle
  | prolog
  | payload
  | epilog
  deriving DecidableEq, Repr

/-- `OP` (R28). -/
inductive BusOp where
  | read
  | write
  | exchange
  | poll
  deriving DecidableEq, Repr

/-- BusConfig (R22, R23), replaced as a whole by `configure`. -/
structure BusConfig where
  /-- `SCL_MASK`, `SDA_O_MASK`, `SDA_I_MASK`, `IDLE_LEVEL`, `DIRECTION`. -/
  pins  : Pins
  /-- `FREQ`, post scaling. -/
  freq  : Freq
  /-- `TX_CAP`. -/
  txCap : Nat
  /-- `RX_CAP`. -/
  rxCap : Nat
  deriving DecidableEq, Repr

/-- The template registers `TPL.*` (R24). -/
structure Templates where
  idle           : Bytes
  dataLow        : Bytes
  clkDataLow     : Bytes
  clkLowDataHigh : Bytes
  start          : Bytes
  stop           : Bytes
  writeByte      : Bytes
  readBit        : Bytes
  flush          : Bytes
  readByte       : Bytes
  ack            : Bytes
  nack           : Bytes
  ruAck          : Bytes
  ruNack         : Bytes
  deriving DecidableEq, Repr

/-- The transaction registers (R28). -/
structure Transaction where
  op   : BusOp
  abW  : Byte
  abR  : Byte
  out  : Bytes
  rlen : Nat
  rem  : Nat
  rbuf : Bytes
  deriving DecidableEq, Repr

/-- A slave handle (R31). -/
structure Handle where
  base     : Nat
  offset   : Nat
  regWidth : Nat
  regBig   : Bool
  deriving DecidableEq, Repr

/-! ### The Command Engine interface (20_memory.md R60, 60_exceptions.md R274) -/

/-- A call on the Command Engine. -/
inductive Call where
  | connect (clock : Freq) (levels direction : Byte)
  | setOutputLevels (levels direction : Byte)
  | setClockPhaseMode (enabled : Bool)
  | setDriveZeroMode (mask : Byte)
  | sendCommands (buffer : Bytes)
  | receiveBytes (count budget : Nat)
  | close
  deriving DecidableEq, Repr

/-- What a call gave back. -/
inductive Answer where
  /-- `connect` reported the two capacities. -/
  | connected (txCap rxCap : Nat)
  /-- `Ok`. -/
  | ok
  /-- `Fail`. -/
  | failed
  /-- Drive-zero mode is absent. -/
  | unsupported
  /-- The bytes `receiveBytes` returned. -/
  | bytes (r : Bytes)
  /-- A call that returns nothing has returned. -/
  | returned
  /-- The call did not return (R78). -/
  | never
  deriving DecidableEq, Repr

/-- One call with its answer, and the sequencer registers at the time. The model's own record. -/
structure CallRecord where
  call    : Call
  phase   : Phase
  attempt : Nat
  answer  : Answer
  deriving DecidableEq, Repr

/-- The answers the environment will give, one queue for each kind of call that has an answer. A call that
finds its queue empty does not return (notes/assumptions/2.md). -/
structure Env where
  /-- `connect`: the two capacities, or `none` for `Fail`. -/
  connects  : List (Option (Nat × Nat))
  /-- `setDriveZeroMode`: true for `Ok`, false for `Unsupported`. -/
  driveZero : List Bool
  /-- `sendCommands`: true for `Ok`, false for `Fail`. -/
  sends     : List Bool
  /-- `receiveBytes`: the bytes, of which at most `count` are returned. -/
  receives  : List Bytes
  deriving DecidableEq, Repr

/-! ### The Command Engine's reference state (R33, R34, 40_command_builder.md R147) -/

/-- What a unit puts on the two lines. -/
inductive WireEvent where
  /-- A pin set: the levels of clock and data. -/
  | pins (scl sda : Bool)
  /-- A clock pulse with the bit the master holds on the data line. -/
  | masterBit (b : Bool)
  /-- A clock pulse with the data line released, and the level sampled. -/
  | slaveBit (b : Bool)
  deriving DecidableEq, Repr

/-- The Command Engine and the bus, by the reference meanings of the units. -/
structure CmdEngine where
  /-- `SCL` (R34). -/
  scl      : Bool
  /-- `SDA` (R34). -/
  sda      : Bool
  /-- The value byte of the last pin set. -/
  pinValue : Byte
  /-- The direction byte of the last pin set. -/
  pinDir   : Byte
  /-- Reply bytes produced and not yet released by a `FLUSH` (R33, R74). -/
  held     : Bytes
  /-- Reply bytes released and not yet consumed. -/
  ready    : Bytes
  /-- The history of the lines, oldest first. The model's own. -/
  wire     : List WireEvent
  /-- The counter of the free values of Config. The model's own. -/
  draws    : Nat
  deriving DecidableEq, Repr

/-! ### Results (00_scope.md R10, 30_encoding.md R91, R92, R103) -/

/-- The value of an `Ok` result. -/
inductive Value where
  | none
  | freq (f : Freq)
  | handle (base : Nat)
  | bytes (d : Bytes)
  | bool (b : Bool)
  deriving DecidableEq, Repr

/-- The result of a host operation. -/
inductive Result where
  | ok (v : Value)
  | err (k : ErrKind)
  deriving DecidableEq, Repr

/-! ### State -/

structure State where
  /-- `CONFIGURED` (R21). -/
  configured : Bool
  /-- BusConfig (R22). -/
  bus        : BusConfig
  /-- `TPL.*` (R24). -/
  tpl        : Templates
  /-- `CHUNK_SIZE` (R25). -/
  chunkSize  : Int
  /-- `PHASE` (R26). -/
  phase      : Phase
  /-- `ATTEMPT` (R27). -/
  attempt    : Nat
  /-- The transaction registers (R28). -/
  txn        : Transaction
  /-- `ACKBIT` (R29): true is 1, refused. -/
  ackBit     : Bool
  /-- `SLAVES` (R30), by address, addresses rising. -/
  slaves     : List (Nat × Handle)
  /-- `CHUNK_CACHE` (R32), by unit count, counts rising. -/
  chunkCache : List (Nat × Bytes)
  /-- The Command Engine and the bus (R33, R34). -/
  ce         : CmdEngine
  /-- The environment's answers to come. The model's own. -/
  env        : Env
  /-- Every Command Engine call so far, oldest first. The model's own. -/
  calls      : List CallRecord
  /-- The call that did not return, if any (R78). The model's own. -/
  pending    : Option Call
  /-- The host's requests not yet taken, each the bytes of one instruction. The model's own. -/
  requests   : List Bytes
  /-- The results delivered to the host, oldest first (R195). The model's own. -/
  responses  : List Result
  /-- The counter of the free value of `FREQ`. The model's own. -/
  freeDraws  : Nat
  /-- The parameters the model is given (00_scope.md R7): "configuration of the model, fixed for a run" (R37). No
  instruction writes them. The model's own. -/
  par        : Params
  deriving DecidableEq, Repr

/-! ### Reset (R36, 70_reset_and_hazards.md R300): the construction of a Bus Master

The values the spec gives are those of `CONFIGURED`, `PHASE`, `ATTEMPT`, `FREQ`, `SLAVES`, `CHUNK_CACHE`;
every other register has no reset value and holds zero or the empty list here: DESIGN CHOICE
(notes/assumptions/9.md). The parameters stand at the spec's defaults (notes/assumptions/10.md). -/

def Pins.zero : Pins := ⟨0, 0, 0, 0, 0⟩

def Templates.none : Templates := ⟨[], [], [], [], [], [], [], [], [], [], [], [], [], []⟩

def State.reset : State where
  configured := false
  bus        := ⟨Pins.zero, 0, 0, 0⟩
  tpl        := Templates.none
  chunkSize  := 0
  phase      := .idle
  attempt    := 0
  txn        := ⟨.read, 0, 0, [], 0, 0, []⟩
  ackBit     := false
  slaves     := []
  chunkCache := []
  ce         := ⟨false, false, 0, 0, [], [], [], 0⟩
  env        := ⟨[], [], [], []⟩
  calls      := []
  pending    := none
  requests   := []
  responses  := []
  freeDraws  := 0
  par        := Config.params

end Sys2Proof.Machine
end

