-- ==== Sys2Proof/Machine/Units.lean ====
section
/-! DEFINITION. Command units and templates: pin values (30_encoding.md R95), expansions (R97), the byte encoding
`ENC` (R96) and its reading, and what the spec asks of parameters. Everything is stated over arbitrary parameters. -/

namespace Sys2Proof.Machine

/-- `rep(k, s)`: `s` concatenated `k` times (00_scope.md R8). -/
def rep {α : Type} (k : Nat) (s : List α) : List α := (List.replicate k s).flatten

/-- `AB(a, rw) = ((a << 1) | rw) & 0xFF = 2a + rw` (30_encoding.md R93); `rw` true is read. -/
def addressByte (a : Nat) (rw : Bool) : Byte := BitVec.ofNat 8 (2 * a + rw.toNat)

/-- The level a pin set puts on the line of `mask`: the value bit where the direction byte drives the pin; a
pin that is not driven is released, which is high (R95, R12; notes/assumptions/15.md). -/
def lineLevel (mask v d : Byte) : Bool := v &&& mask != 0 || d &&& mask == 0

/-- The clock line after a pin set. -/
def sclLevel (p : Pins) (v d : Byte) : Bool := lineLevel p.sclMask v d

/-- The data line after a pin set. -/
def sdaLevel (p : Pins) (v d : Byte) : Bool := lineLevel p.sdaOMask v d

/-! ### The ten units (R95, 40_command_builder.md R131 to R134) -/

/-- The pin value of `IDLE`: `I` (R131). -/
def idleValue (p : Pins) : Byte := p.idleLevel
/-- The pin value of `DATA_LOW`: `I & ~D` (R132). -/
def dataLowValue (p : Pins) : Byte := p.idleLevel &&& ~~~p.sdaOMask
/-- The pin value of `CLK_DATA_LOW`: `I & ~(D | C)` (R133). -/
def clkDataLowValue (p : Pins) : Byte := p.idleLevel &&& ~~~(p.sdaOMask ||| p.sclMask)
/-- The pin value of `CLK_LOW_DATA_HIGH`: `I & ~C` (R134). -/
def clkLowDataHighValue (p : Pins) : Byte := p.idleLevel &&& ~~~p.sclMask

/-! ### The templates as unit sequences (R97) -/

/-- `START` (R135). -/
def startUnits : List CmdUnit := List.replicate Config.nHold .dataLow ++ List.replicate Config.nHold .clkDataLow
/-- `STOP` (R136): mirror of start plus return to idle. -/
def stopUnits (P : Params) : List CmdUnit :=
  List.replicate Config.nStopHold .clkDataLow ++ List.replicate Config.nStopHold .dataLow ++
    List.replicate P.nStopIdle .idle
/-- `WU(b)` (R140). -/
def wuUnits (b : Byte) : List CmdUnit := [.writeByte b, .readBit, .flush]
/-- `RU_ACK` (R144). -/
def ruAckUnits : List CmdUnit := [.readByte, .ack, .clkLowDataHigh]
/-- `RU_NACK` (R144). -/
def ruNackUnits : List CmdUnit := [.readByte, .nack, .clkLowDataHigh]
/-- `PROLOG_CMD(ab)` (R97, 41_phases.md R161). -/
def prologUnits (ab : Byte) : List CmdUnit := .idle :: startUnits ++ wuUnits ab
/-- `CHUNK_MID(s)` (R146). -/
def chunkMidUnits (s : Nat) : List CmdUnit := rep s ruAckUnits
/-- `CHUNK_LAST(s)`, `s ≥ 1` (R146). -/
def chunkLastUnits (s : Nat) : List CmdUnit := rep (s - 1) ruAckUnits ++ ruNackUnits ++ [.flush]

/-! ### The byte encoding (R94, R96) -/

/-- A byte of a pin set with value `v` and direction `d`. -/
def pinPieceByte (v d : Byte) : PinPiece → Byte
  | .byte b => b
  | .value => v
  | .direction => d

/-- The bytes of a pin set with value `v` and direction `d`. -/
def pinSetBytes (e : PinEnc) (v d : Byte) : Bytes :=
  match e.rows.lookup (v, d) with
  | some bytes => bytes
  | none => e.layout.map (pinPieceByte v d)

/-- The bytes of one unit: its encoding, a pin set's at the operands of R95. -/
def unitBytes (P : Params) : CmdUnit → Bytes
  | .idle           => pinSetBytes P.enc.idle (idleValue P.pins) P.pins.direction
  | .dataLow        => pinSetBytes P.enc.dataLow (dataLowValue P.pins) P.pins.direction
  | .clkDataLow     => pinSetBytes P.enc.clkDataLow (clkDataLowValue P.pins) P.pins.direction
  | .clkLowDataHigh => pinSetBytes P.enc.clkLowDataHigh (clkLowDataHighValue P.pins) P.pins.direction
  | .writeByte b    => P.enc.writeByte ++ [b]
  | .readBit        => P.enc.readBit
  | .readByte       => P.enc.readByte
  | .ack            => P.enc.ack
  | .nack           => P.enc.nack
  | .flush          => P.enc.flush

/-- The bytes of a unit sequence: concatenation (R94). -/
def unitsBytes (P : Params) (us : List CmdUnit) : Bytes := us.flatMap (unitBytes P)

/-- The units whose bytes are fixed by the parameters: all but `WRITE_BYTE(b)`. -/
def fixedUnits : List CmdUnit :=
  [.idle, .dataLow, .clkDataLow, .clkLowDataHigh, .readBit, .readByte, .ack, .nack, .flush]

/-- `bs` without the prefix `p`. -/
def dropPrefix : Bytes → Bytes → Option Bytes
  | [], bs => some bs
  | _ :: _, [] => none
  | p :: ps, b :: bs => if p = b then dropPrefix ps bs else none

/-- The operand of a byte write. -/
def takeData : Bytes → Option (CmdUnit × Bytes)
  | b :: rest => some (.writeByte b, rest)
  | [] => none

/-- Read one unit from the front: what stands there fixes unit and length (R94). No unit begins another, so the order
of the tests is no matter. -/
def parseUnit (P : Params) (bs : Bytes) : Option (CmdUnit × Bytes) :=
  (fixedUnits.findSome? fun u => (dropPrefix (unitBytes P u) bs).map fun rest => (u, rest)).or
    ((dropPrefix P.enc.writeByte bs).bind takeData)

/-- Decode a buffer left to right, unit after unit (R94), at most `fuel` units; it ends at the first byte
that starts no unit. -/
def parseUnits (P : Params) : Nat → Bytes → List CmdUnit
  | 0, _ => []
  | fuel + 1, bs =>
    match parseUnit P bs with
    | some (u, rest) => u :: parseUnits P fuel rest
    | none => []

/-- The units of a buffer. Every unit has at least one byte, so the length is fuel enough. -/
def unitsOf (P : Params) (buffer : Bytes) : List CmdUnit := parseUnits P buffer.length buffer

/-- What stands before the free bytes of each unit, with their number: one data byte behind the head of `WRITE_BYTE`,
none behind the others. -/
def unitHeads (P : Params) : List (Bytes × Nat) :=
  (P.enc.writeByte, 1) :: fixedUnits.map fun u => (unitBytes P u, 0)

end Sys2Proof.Machine

namespace Sys2Proof

/-! ### What the spec asks of parameters -/

/-- A mask of one bit. -/
abbrev OneBit (m : Byte) : Prop := m ∈ ([0x01, 0x02, 0x04, 0x08, 0x10, 0x20, 0x40, 0x80] : Bytes)

/-- The masks are one bit each, pairwise distinct (10_state.md R22, D8); the idle level has both lines high
(30_encoding.md R95) and `DIRECTION` drives both (R22). -/
abbrev Pins.Ok (p : Pins) : Prop :=
  OneBit p.sclMask ∧ OneBit p.sdaOMask ∧ OneBit p.sdaIMask ∧
    p.sclMask ≠ p.sdaOMask ∧ p.sclMask ≠ p.sdaIMask ∧ p.sdaOMask ≠ p.sdaIMask ∧
    p.idleLevel &&& (p.sclMask ||| p.sdaOMask) = p.sclMask ||| p.sdaOMask ∧
    p.direction &&& (p.sclMask ||| p.sdaOMask) = p.sclMask ||| p.sdaOMask

/-- `ENC` at these pins: every unit is non-empty and self-delimiting, its first byte fixing its length (30_encoding.md
R94, R96), so no unit begins another, and units that share a first byte have one length. `RU_ACK` and `RU_NACK` have
one length (R96). -/
abbrev Params.EncOk (P : Params) : Prop :=
  (∀ x ∈ Machine.unitHeads P, x.1 ≠ []) ∧
    (Machine.unitHeads P).Pairwise (fun x y => ¬x.1 <+: y.1 ∧ ¬y.1 <+: x.1 ∧
      (x.1.head? = y.1.head? → x.1.length + x.2 = y.1.length + y.2)) ∧
    P.enc.ack.length = P.enc.nack.length

/-- Parameters a model may be given (R7, R22, R94 to R96; `N_STOP_IDLE ≥ 1`, 40_command_builder.md R136). -/
def Params.ok (P : Params) : Bool := decide (P.pins.Ok ∧ P.EncOk ∧ 1 ≤ P.nStopIdle)

abbrev Params.Ok (P : Params) : Prop := P.ok = true

end Sys2Proof
end

