-- ==== Sys2Proof/Machine/Builder.lean ====
section
/-! DEFINITION. The Protocol Command Builder (40_command_builder.md R130): the template registers from the
pins and `ENC`, the chunk size from the capacities. Pure. -/

namespace Sys2Proof.Machine

/-- Every `TPL` register (R130). -/
def buildTemplates (P : Params) : Templates where
  idle           := unitBytes P .idle
  dataLow        := unitBytes P .dataLow
  clkDataLow     := unitBytes P .clkDataLow
  clkLowDataHigh := unitBytes P .clkLowDataHigh
  start          := unitsBytes P startUnits
  stop           := unitsBytes P (stopUnits P)
  writeByte      := P.enc.writeByte
  readBit        := unitBytes P .readBit
  flush          := unitBytes P .flush
  readByte       := unitBytes P .readByte
  ack            := unitBytes P .ack
  nack           := unitBytes P .nack
  ruAck          := unitsBytes P ruAckUnits
  ruNack         := unitsBytes P ruNackUnits

/-- `UNIT_LEN = len(RU_NACK)` (R25). -/
def unitLen (t : Templates) : Nat := t.ruNack.length

/-- `CHUNK_SIZE = min(RX_CAP − 2, TX_CAP div UNIT_LEN)` over the integers (R145). -/
def chunkSizeOf (t : Templates) (txCap rxCap : Nat) : Int :=
  min ((rxCap : Int) - (Config.rxReserve : Int)) ((txCap / unitLen t : Nat) : Int)

end Sys2Proof.Machine
end

