-- ==== Sys2Proof/Machine/CommandEngine.lean ====
section
/-! DEFINITION. The Command Engine by the reference meanings of the units (40_command_builder.md R131 to R144,
R147): what a unit does to the two lines and to the reply buffer. The spec gives these meanings as intended
ones, of the environment and not of the block (R4, R147). -/

namespace Sys2Proof.Machine

/-- The eight bits of a byte, most significant first (20_memory.md R63). -/
def bitsMsbFirst (b : Byte) : List Bool :=
  [b.getLsbD 7, b.getLsbD 6, b.getLsbD 5, b.getLsbD 4, b.getLsbD 3, b.getLsbD 2, b.getLsbD 1, b.getLsbD 0]

/-- A pin set: absolute levels of both lines (R131 to R134). No reply. That no slave holds the data line low against a
released one, as a present slave polled for reading may through the stop (42_operations.md R194), is the model's choice
(DESIGN CHOICE, notes/assumptions/37.md). -/
def CmdEngine.pinSet (p : Pins) (v d : Byte) (c : CmdEngine) : CmdEngine :=
  { c with
    scl := sclLevel p v d, sda := sdaLevel p v d, pinValue := v, pinDir := d
    wire := c.wire ++ [.pins (sclLevel p v d) (sdaLevel p v d)] }

/-- Clock pulses carrying `bits`; the clock is low at the end (R137), the data line is at a level the spec does
not give (notes/assumptions/14.md). -/
def CmdEngine.clock (bits : List WireEvent) (c : CmdEngine) : CmdEngine :=
  { c with
    scl := false, sda := Config.freeLevel c.draws, wire := c.wire ++ bits, draws := c.draws + 1 }

/-- The Command Engine produces a reply byte; no `FLUSH` has released it yet (R70). -/
def CmdEngine.reply (b : Byte) (c : CmdEngine) : CmdEngine := { c with held := c.held ++ [b] }

/-- `WRITE_BYTE(b)`: eight clock pulses, bit 7 first (R137). -/
def CmdEngine.shiftOutByte (b : Byte) (c : CmdEngine) : CmdEngine :=
  c.clock ((bitsMsbFirst b).map .masterBit)

/-- `ACK` and `NACK`: one clock pulse with the master's level on the data line (R142, R143). -/
def CmdEngine.shiftOutBit (level : Bool) (c : CmdEngine) : CmdEngine := c.clock [.masterBit level]

/-- `READ_BIT`: one clock pulse, the data line released and sampled; one reply byte whose bit 0 is the sample,
the other bits any value (R138, R101). -/
def CmdEngine.shiftInBit (c : CmdEngine) : CmdEngine :=
  (c.clock [.slaveBit ((Config.freeReply c.draws).getLsbD 0)]).reply (Config.freeReply c.draws)

/-- `READ_BYTE`: eight clock pulses, the data line released; one reply byte, first bit received in bit 7
(R141, R63). -/
def CmdEngine.shiftInByte (c : CmdEngine) : CmdEngine :=
  (c.clock ((bitsMsbFirst (Config.freeReply c.draws)).map .slaveBit)).reply (Config.freeReply c.draws)

/-- `FLUSH`: nothing on the lines; the reply bytes produced so far are released (R139, R74). -/
def CmdEngine.flush (c : CmdEngine) : CmdEngine := { c with ready := c.ready ++ c.held, held := [] }

/-- One unit; a pin set at the operands BusConfig gives it. -/
def CmdEngine.unit (p : Pins) (u : CmdUnit) (c : CmdEngine) : CmdEngine :=
  match u with
  | .idle => c.pinSet p (idleValue p) p.direction
  | .dataLow => c.pinSet p (dataLowValue p) p.direction
  | .clkDataLow => c.pinSet p (clkDataLowValue p) p.direction
  | .clkLowDataHigh => c.pinSet p (clkLowDataHighValue p) p.direction
  | .writeByte b => c.shiftOutByte b
  | .readBit => c.shiftInBit
  | .readByte => c.shiftInByte
  | .ack => c.shiftOutBit false
  | .nack => c.shiftOutBit true
  | .flush => c.flush

/-- Units in order (20_memory.md R73 c). -/
def CmdEngine.units (p : Pins) (us : List CmdUnit) (c : CmdEngine) : CmdEngine :=
  us.foldl (fun c u => c.unit p u) c

/-- The one reply byte of a `STOP` sequence, value any: which unit produces it is not in the source
(R70, 91_not_in_source.md N21; notes/assumptions/16.md). -/
def CmdEngine.stopReply (c : CmdEngine) : CmdEngine :=
  { c.reply (Config.freeReply c.draws) with draws := c.draws + 1 }

/-- `STOP` with its reply. -/
def CmdEngine.stop (P : Params) (c : CmdEngine) : CmdEngine := (c.units P.pins (stopUnits P)).stopReply

/-- Bytes the Command Engine executes: their units left to right (R94), a whole `STOP` buffer with its reply
byte. -/
def CmdEngine.execute (P : Params) (bytes : Bytes) (c : CmdEngine) : CmdEngine :=
  if bytes = unitsBytes P (stopUnits P) then c.stop P else c.units P.pins (unitsOf P bytes)

/-- A buffer whose send failed or never returned: some first part of it, of unknown length, was executed
(20_memory.md R61). Where that part is the whole of a `STOP`, its reply byte is produced as in an accepted `STOP`,
and no reply byte where it is less: the spec does not say (DESIGN CHOICE, notes/assumptions/13.md, 16.md). -/
def CmdEngine.cutShort (P : Params) (buffer : Bytes) (c : CmdEngine) : CmdEngine :=
  { c.execute P (buffer.take (Config.executedBytes c.draws)) with
    draws := (c.execute P (buffer.take (Config.executedBytes c.draws))).draws + 1 }

/-- `k` reply bytes leave the buffer, released ones first. -/
def CmdEngine.consume (k : Nat) (c : CmdEngine) : CmdEngine :=
  { c with ready := c.ready.drop k, held := c.held.drop (k - c.ready.length) }

/-- No connection is open, after `close` or after a `connect` that failed: the reply bytes not yet consumed are gone,
the lines and the pin latches stay as they were. The spec states nothing of it but that `terminate` followed by
`configure` gives a clean state (60_exceptions.md R269, R274, 70_reset_and_hazards.md R313): DESIGN CHOICE,
notes/assumptions/34.md. -/
def CmdEngine.disconnected (c : CmdEngine) : CmdEngine := { c with held := [], ready := [] }

/-- Reply bytes produced and not consumed. -/
def CmdEngine.outstanding (c : CmdEngine) : Nat := c.ready.length + c.held.length

end Sys2Proof.Machine
end

