-- ==== Sys2Proof/Machine/Ops.lean ====
section
/-! DEFINITION. The named operations every meaning is written with: updates of State, the keyed stores, the
Command Engine calls (`MemWrite`, `MemRead` and the others of 00_scope.md R9), the procedures made of them, and how
an operation ends: with a result, with an error (60_exceptions.md R260, R267), or not at all (20_memory.md R78). -/

namespace Sys2Proof.Machine

/-! ### Keyed stores: lists of (key, value), keys strictly rising -/

def mapGet {α : Type} (k : Nat) : List (Nat × α) → Option α
  | [] => none
  | (j, a) :: m => if j = k then some a else mapGet k m

/-- Write the value of a key, keeping the keys rising. -/
def mapPut {α : Type} (k : Nat) (v : α) : List (Nat × α) → List (Nat × α)
  | [] => [(k, v)]
  | (j, a) :: m =>
    if k < j then (k, v) :: (j, a) :: m
    else if k = j then (k, v) :: m
    else (j, a) :: mapPut k v m

/-- The canonical form: keys strictly rising. -/
abbrev mapWf {α : Type} (m : List (Nat × α)) : Prop := (m.map Prod.fst).Pairwise (· < ·)

/-! ### Updates of State -/

def State.setPhase (p : Phase) (s : State) : State := { s with phase := p }
def State.setAttempt (n : Nat) (s : State) : State := { s with attempt := n }
def State.setAckBit (b : Bool) (s : State) : State := { s with ackBit := b }
def State.setTxn (t : Transaction) (s : State) : State := { s with txn := t }
def State.setCe (c : CmdEngine) (s : State) : State := { s with ce := c }
def State.setEnv (e : Env) (s : State) : State := { s with env := e }
def State.setPending (c : Option Call) (s : State) : State := { s with pending := c }
def State.setConfigured (b : Bool) (s : State) : State := { s with configured := b }
def State.setBus (b : BusConfig) (s : State) : State := { s with bus := b }
def State.setTemplates (t : Templates) (s : State) : State := { s with tpl := t }
def State.setChunkSize (c : Int) (s : State) : State := { s with chunkSize := c }
def State.setCache (m : List (Nat × Bytes)) (s : State) : State := { s with chunkCache := m }
def State.setSlaves (m : List (Nat × Handle)) (s : State) : State := { s with slaves := m }
def State.setRequests (r : List Bytes) (s : State) : State := { s with requests := r }
def State.respond (r : Result) (s : State) : State := { s with responses := s.responses ++ [r] }
def State.drawFreq (s : State) : State := { s with freeDraws := s.freeDraws + 1 }

/-- Note a call and its answer. -/
def State.record (c : Call) (a : Answer) (s : State) : State :=
  { s with calls := s.calls ++ [⟨c, s.phase, s.attempt, a⟩] }

/-! ### The environment: what a call is answered, and what it does (R60 to R62, R274)

`none` is a call that does not return (20_memory.md R78). -/

/-- `connect(config)`: the two capacities, or `Fail`, which leaves no connection. A connection that opens leaves the
reply buffer, the lines and the pin latches as they were: the spec states nothing of it (DESIGN CHOICE,
notes/assumptions/34.md). -/
def answerConnect (c : Call) (s : State) : Option (Answer × State) :=
  match s.env.connects with
  | [] => none
  | some (tx, rx) :: rest =>
    some (.connected tx rx, (s.setEnv { s.env with connects := rest }).record c (.connected tx rx))
  | none :: rest =>
    some (.failed, ((s.setEnv { s.env with connects := rest }).setCe s.ce.disconnected).record c .failed)

/-- `setOutputLevels(levels, direction)`: the pins are set (R34, R303; notes/assumptions/29.md). The reply buffer stays
(DESIGN CHOICE, notes/assumptions/36.md). -/
def answerSetOutputLevels (levels direction : Byte) (c : Call) (s : State) : Option (Answer × State) :=
  some (.returned, (s.setCe (s.ce.pinSet s.par.pins levels direction)).record c .returned)

/-- `setClockPhaseMode(enabled)`: nothing this model holds; reply buffer, lines and latches stay (DESIGN CHOICE,
notes/assumptions/36.md). -/
def answerSetClockPhaseMode (c : Call) (s : State) : Option (Answer × State) :=
  some (.returned, s.record c .returned)

/-- `setDriveZeroMode(mask)`: `Ok` or `Unsupported`; reply buffer, lines and latches stay (DESIGN CHOICE,
notes/assumptions/36.md). -/
def answerSetDriveZeroMode (c : Call) (s : State) : Option (Answer × State) :=
  match s.env.driveZero with
  | [] => none
  | z :: rest =>
    some (bif z then .ok else .unsupported,
      (s.setEnv { s.env with driveZero := rest }).record c (bif z then .ok else .unsupported))

/-- `sendCommands(v)`: `Ok` or `Fail` (R61). -/
def answerSend (v : Bytes) (c : Call) (s : State) : Option (Answer × State) :=
  match s.env.sends with
  | [] => none
  | ok :: rest =>
    some (bif ok then .ok else .failed,
      ((s.setEnv { s.env with sends := rest }).setCe
        (bif ok then s.ce.execute s.par v else s.ce.cutShort s.par v)).record c (bif ok then .ok else .failed))

/-- `receiveBytes(n, budget)`: at most `n` bytes (R62). -/
def answerReceive (n : Nat) (c : Call) (s : State) : Option (Answer × State) :=
  match s.env.receives with
  | [] => none
  | r :: rest =>
    some (.bytes (r.take n),
      ((s.setEnv { s.env with receives := rest }).setCe (s.ce.consume (r.take n).length)).record c
        (.bytes (r.take n)))

/-- `close()`: no connection is left. What that does to the reply buffer, the lines and the pin latches is the model's
choice (notes/assumptions/34.md). -/
def answerClose (c : Call) (s : State) : Option (Answer × State) :=
  some (.returned, (s.setCe s.ce.disconnected).record c .returned)

/-- One Command Engine call: its answer and the state after it, or `none` where it does not return. -/
def perform (c : Call) (s : State) : Option (Answer × State) :=
  match c with
  | .connect .. => answerConnect c s
  | .setOutputLevels levels direction => answerSetOutputLevels levels direction c s
  | .setClockPhaseMode _ => answerSetClockPhaseMode c s
  | .setDriveZeroMode _ => answerSetDriveZeroMode c s
  | .sendCommands v => answerSend v c s
  | .receiveBytes n _ => answerReceive n c s
  | .close => answerClose c s

/-- What a call that does not return has done to the Command Engine: of a buffer, some first part was executed
(DESIGN CHOICE, notes/assumptions/13.md). A `connect`, `setDriveZeroMode` or `receiveBytes` that never returns leaves
its reply buffer, lines and pin latches as they were: R78 and R312 give only the block's side and R274 says nothing
(DESIGN CHOICE, notes/assumptions/36.md). The other calls always return (notes/assumptions/3.md). -/
def CmdEngine.interrupted (P : Params) (c : Call) (ce : CmdEngine) : CmdEngine :=
  match c with
  | .sendCommands v => ce.cutShort P v
  | .connect .. | .setOutputLevels .. | .setClockPhaseMode _ | .setDriveZeroMode _ | .receiveBytes .. | .close => ce

/-- The call does not return: `PHASE` and every register of the block stay as they were (R78). -/
def hang (c : Call) (s : State) : State :=
  ((s.setCe (s.ce.interrupted s.par c)).record c .never).setPending (some c)

/-! ### Procedures, one Command Engine call at a time (00_scope.md R6, R11) -/

/-- A procedure of the engine: it has ended with a value, or it makes a call in a state and goes on with the answer.
The engine is between two calls exactly at the `call` nodes. -/
inductive Proc (α : Type) where
  /-- It has ended. -/
  | done (a : α) (s : State)
  /-- The next call, made in state `s`, and what follows its answer. -/
  | call (c : Call) (s : State) (k : Answer → State → Proc α)

/-- The state the procedure stands in. -/
def Proc.state {α : Type} : Proc α → State
  | .done _ s => s
  | .call _ s _ => s

/-- One procedure after another. -/
def Proc.andThen {α β : Type} (p : Proc α) (f : α → State → Proc β) : Proc β :=
  match p with
  | .done a s => f a s
  | .call c s k => .call c s fun a t => (k a t).andThen f

/-- ONE STEP OF THE ENGINE: one Command Engine call (R6, R11). `none` where there is none: the procedure has ended, or
its call does not return. -/
def Proc.engineStep {α : Type} : Proc α → Option (Proc α)
  | .done _ _ => none
  | .call c s k => (perform c s).map fun (a, t) => k a t

/-- `n` steps of the engine. -/
def Proc.engineSteps {α : Type} : Nat → Proc α → Option (Proc α)
  | 0, p => some p
  | n + 1, p => p.engineStep.bind (Proc.engineSteps n)

/-- What a procedure comes to. -/
inductive Run (α : Type) where
  /-- It returned `a`. -/
  | done (a : α) (s : State)
  /-- A call did not return: the engine is stuck where it was. -/
  | stuck (s : State)

/-- All the steps of a procedure. -/
def Proc.run {α : Type} : Proc α → Run α
  | .done a s => .done a s
  | .call c s k =>
    match perform c s with
    | some (a, t) => (k a t).run
    | none => .stuck (hang c s)

/-! ### The calls the engine makes -/

/-- `connect` with the scaled clock, the idle level and the direction (R220): the capacities, or `none` for `Fail`. -/
def callConnect (clock : Freq) (s : State) : Proc (Option (Nat × Nat)) :=
  .call (.connect clock s.par.pins.idleLevel s.par.pins.direction) s fun a t =>
    .done (match a with
      | .connected tx rx => some (tx, rx)
      | .ok | .failed | .unsupported | .bytes _ | .returned | .never => none) t

/-- `setOutputLevels(IDLE_LEVEL, DIRECTION)`. -/
def callSetOutputLevels (s : State) : Proc Unit :=
  .call (.setOutputLevels s.par.pins.idleLevel s.par.pins.direction) s fun _ t => .done () t

/-- `setClockPhaseMode(true)`. -/
def callSetClockPhaseMode (s : State) : Proc Unit := .call (.setClockPhaseMode true) s fun _ t => .done () t

/-- `setDriveZeroMode(DRIVE_ZERO_MASK)`: true for `Ok`, false for `Unsupported`. -/
def callSetDriveZeroMode (s : State) : Proc Bool :=
  .call (.setDriveZeroMode s.par.driveZeroMask) s fun a t => .done (a == .ok) t

/-- `close()`. -/
def callClose (s : State) : Proc Unit := .call .close s fun _ t => .done () t

/-- `MemWrite(TX, len(v), v)`: one `sendCommands(v)` call; true for `Ok`, false for `Fail` (R61). -/
def memWrite (v : Bytes) (s : State) : Proc Bool := .call (.sendCommands v) s fun a t => .done (a == .ok) t

/-- `MemRead(RX, n, budget)`: one `receiveBytes(n, budget)` call (R62). -/
def memRead (n budget : Nat) (s : State) : Proc Bytes :=
  .call (.receiveBytes n budget) s fun a t =>
    .done (match a with
      | .bytes r => r
      | .connected .. | .ok | .failed | .unsupported | .returned | .never => []) t

/-! ### The streams (R60) -/

/-- The bytes a call adds to the TX stream. -/
def CallRecord.txBytes (r : CallRecord) : Bytes :=
  match r.call with
  | .sendCommands v => v
  | _ => []

/-- The bytes a call adds to the RX stream. -/
def CallRecord.rxBytes (r : CallRecord) : Bytes :=
  match r.answer with
  | .bytes b => b
  | _ => []

/-- The TX stream: the buffers given to `sendCommands`, in call order. -/
def State.txStream (s : State) : Bytes := s.calls.flatMap CallRecord.txBytes

/-- The RX stream: the bytes `receiveBytes` returned, in call order. -/
def State.rxStream (s : State) : Bytes := s.calls.flatMap CallRecord.rxBytes

/-! ### How an operation ends -/

/-- The operation ends with `Ok(v)` at `PHASE = IDLE` (42_operations.md R195). -/
def returnOk (v : Value) (s : State) : State := (s.setPhase .idle).respond (.ok v)

/-- `raise K`: the operation ends with `Err(K)` at `PHASE = IDLE`. Nothing is saved, there is no handler and no
error register (60_exceptions.md R267, R269); an error carries its kind only (R260). What a bus operation does
before, its epilog and the discarding of `RBUF`, is in `attemptOnce` and `discardRead`. -/
def raiseError (k : ErrKind) (s : State) : State := (s.setPhase .idle).respond (.err k)

/-- `RBUF` is discarded when an attempt does not end in `Acked` (10_state.md R28, R267 (4)). -/
def discardRead (s : State) : State := s.setTxn { s.txn with rbuf := [] }

/-- The end of a procedure that returns a result: it is delivered, or the engine is stuck and stays so. -/
def Run.outcome (r : Run Result) : Host.Outcome State Fault Refusal :=
  match r with
  | .done (.ok v) s => .next (returnOk v s)
  | .done (.err k) s => .next (raiseError k s)
  | .stuck s => .next s

/-- What a host request starts: a procedure of the engine, or nothing, where the spec refuses it. -/
inductive Operation where
  | running (p : Proc Result)
  | refused (r : Refusal)

/-- A request as the host sees it: issued, run to its end, answered (R6: a request/response pair per operation). -/
def Operation.outcome : Operation → Host.Outcome State Fault Refusal
  | .running p => p.run.outcome
  | .refused r => .refused r

/-- The request ends at once with this result. -/
def endWith (r : Result) (s : State) : Operation := .running (.done r s)

/-- An engine that is stuck, or at another `PHASE` than `IDLE`, has an operation in progress. -/
abbrev State.free (s : State) : Prop := s.phase = .idle ∧ s.pending = none

/-- A host operation starts only where none is in progress (R71, U1). -/
def whenFree (s : State) (k : Operation) : Operation := if s.free then k else .refused .operationInProgress

end Sys2Proof.Machine
end

