-- ==== Sys2Proof/Machine/Command.lean ====
section
/-! DEFINITION. The command units and templates as instructions of the Command Engine (40_command_builder.md
R131 to R146, 41_phases.md R161), by the same reference meanings that a sent buffer is executed with. They act
on the Command Engine's record alone; no register of the block changes (R147). -/

namespace Sys2Proof.Machine

/-- A change of the Command Engine and nothing else. -/
def onCe (f : CmdEngine → CmdEngine) (s : State) : Host.Outcome State Fault Refusal := .next (s.setCe (f s.ce))

/-! ### Units -/

/-- IDLE (R131). -/
def execIdle (v d : Byte) (s : State) : Host.Outcome State Fault Refusal := onCe (CmdEngine.pinSet s.par.pins v d) s
/-- DATA_LOW (R132). -/
def execDataLow (v d : Byte) (s : State) : Host.Outcome State Fault Refusal := onCe (CmdEngine.pinSet s.par.pins v d) s
/-- CLK_DATA_LOW (R133). -/
def execClkDataLow (v d : Byte) (s : State) : Host.Outcome State Fault Refusal := onCe (CmdEngine.pinSet s.par.pins v d) s
/-- CLK_LOW_DATA_HIGH (R134). -/
def execClkLowDataHigh (v d : Byte) (s : State) : Host.Outcome State Fault Refusal :=
  onCe (CmdEngine.pinSet s.par.pins v d) s
/-- WRITE_BYTE (R137). -/
def execWriteByte (b : Byte) (s : State) : Host.Outcome State Fault Refusal := onCe (CmdEngine.shiftOutByte b) s
/-- READ_BIT (R138). -/
def execReadBit (s : State) : Host.Outcome State Fault Refusal := onCe CmdEngine.shiftInBit s
/-- FLUSH (R139). -/
def execFlush (s : State) : Host.Outcome State Fault Refusal := onCe CmdEngine.flush s
/-- READ_BYTE (R141). -/
def execReadByte (s : State) : Host.Outcome State Fault Refusal := onCe CmdEngine.shiftInByte s
/-- ACK (R142). -/
def execAck (s : State) : Host.Outcome State Fault Refusal := onCe (CmdEngine.shiftOutBit false) s
/-- NACK (R143): sent by the master, no error. -/
def execNack (s : State) : Host.Outcome State Fault Refusal := onCe (CmdEngine.shiftOutBit true) s

/-! ### Templates -/

/-- START (R135). -/
def execStart (s : State) : Host.Outcome State Fault Refusal :=
  onCe (CmdEngine.units s.par.pins startUnits) s
/-- STOP (R136), with its one reply byte (R70). -/
def execStop (s : State) : Host.Outcome State Fault Refusal := onCe (CmdEngine.stop s.par) s
/-- WU (R140). -/
def execWu (b : Byte) (s : State) : Host.Outcome State Fault Refusal := onCe (CmdEngine.units s.par.pins (wuUnits b)) s
/-- RU_ACK (R144). -/
def execRuAck (s : State) : Host.Outcome State Fault Refusal :=
  onCe (CmdEngine.units s.par.pins ruAckUnits) s
/-- RU_NACK (R144). -/
def execRuNack (s : State) : Host.Outcome State Fault Refusal :=
  onCe (CmdEngine.units s.par.pins ruNackUnits) s
/-- PROLOG_CMD (R161) with the address byte `AB(a, r)`. -/
def execPrologCmd (a : BitVec 7) (r : Bool) (s : State) : Host.Outcome State Fault Refusal :=
  onCe (CmdEngine.units s.par.pins (prologUnits (addressByte a.toNat r))) s
/-- CHUNK_MID (R146). -/
def execChunkMid (n : Nat) (s : State) : Host.Outcome State Fault Refusal :=
  onCe (CmdEngine.units s.par.pins (chunkMidUnits n)) s
/-- CHUNK_LAST (R146). -/
def execChunkLast (n : Nat) (s : State) : Host.Outcome State Fault Refusal :=
  onCe (CmdEngine.units s.par.pins (chunkLastUnits n)) s

end Sys2Proof.Machine
end

