-- ==== Sys2Proof/Machine/Flags.lean ====
section
/-! DEFINITION. The one condition flag, `ACKBIT` (10_state.md R29), and the outcome it decides. -/

namespace Sys2Proof.Machine

/-- The outcome of a procedure that touches the bus (00_scope.md R10). -/
inductive PhaseOutcome where
  | acked (d : Bytes)
  | nack
  | transport
  deriving DecidableEq, Repr

/-- `reply & 1`: bit 0 of a reply byte, bits 7:1 ignored (30_encoding.md R101). -/
def ackBitOf (reply : Byte) : Bool := reply.getLsbD 0

/-- The acknowledgement test of a prolog and of a written byte (41_phases.md R161, R163): no reply byte is a
transport failure and leaves the flag alone; else the flag is bit 0 of the reply, and 1 is a refusal. -/
def ackTest (r : Bytes) (s : State) : Proc PhaseOutcome :=
  match r with
  | [] => .done .transport s
  | b :: _ => .done (if ackBitOf b then .nack else .acked []) (s.setAckBit (ackBitOf b))

end Sys2Proof.Machine
end

