-- ==== Sys2Proof/Machine/Operands.lean ====
section
/-! DEFINITION. Operand forms: the validation of arguments (42_operations.md R190), the effective address and
the register-address prefix of a handle (44_slave_handle.md R240, R243), and the buffers the phases send,
assembled from the template registers (41_phases.md R161 to R164). The address byte is `addressByte`
(30_encoding.md R93). -/

namespace Sys2Proof.Machine

/-! ### Validation (R190) -/

/-- The error of the first check that fails. -/
def firstError : List (Bool × ErrKind) → Option ErrKind
  | [] => none
  | (ok, k) :: rest => if ok then firstError rest else some k

/-- Check 1. -/
def addressCheck (address : Nat) : Bool × ErrKind := (decide (address ≤ Config.addrMax), .configurationError)
/-- Check 2. -/
def payloadCheck (out : Bytes) (s : State) : Bool × ErrKind := (decide (1 ≤ out.length), s.par.errEmpty)
/-- Check 3. -/
def lengthCheck (n : Nat) (s : State) : Bool × ErrKind := (decide (1 ≤ n), s.par.errEmpty)
/-- Check 4. -/
def boundCheck (n : Nat) : Bool × ErrKind := (decide (n ≤ Config.maxXchgRlen), .payloadTooLarge)
/-- Check 5. -/
def configuredCheck (s : State) : Bool × ErrKind := (s.configured, .configurationError)

/-- The checks of each operation in the order they are made. -/
def validateRead (address n : Nat) (s : State) : Option ErrKind :=
  firstError [addressCheck address, lengthCheck n s, configuredCheck s]
def validateWrite (address : Nat) (out : Bytes) (s : State) : Option ErrKind :=
  firstError [addressCheck address, payloadCheck out s, configuredCheck s]
def validateExchange (address : Nat) (out : Bytes) (n : Nat) (s : State) : Option ErrKind :=
  firstError [addressCheck address, payloadCheck out s, lengthCheck n s, boundCheck n, configuredCheck s]
def validatePoll (address : Nat) (s : State) : Option ErrKind :=
  firstError [addressCheck address, configuredCheck s]

/-! ### Handles -/

/-- `EA(h) = BASE + OFFSET` (R240). -/
def Handle.ea (h : Handle) : Nat := h.base + h.offset

/-- The handle `getSlave` creates (43_management.md R222). -/
def Handle.fresh (address : Nat) : Handle := ⟨address, 0, 1, false⟩

/-- `REGENC(h, regAddr)`: the prefix of `REG_WIDTH` bytes, or `none` where the address does not fit (R243). -/
def regEnc (h : Handle) (regAddr : Nat) : Option Bytes :=
  let little := (List.range h.regWidth).map fun i => BitVec.ofNat 8 (regAddr >>> (8 * i))
  if regAddr < 2 ^ (8 * h.regWidth) then some (if h.regBig then little.reverse else little) else none

/-! ### Buffers, from the templates of the current configuration (20_memory.md R75) -/

/-- `WU(b)` (R163). -/
def Templates.wu (t : Templates) (b : Byte) : Bytes := t.writeByte ++ [b] ++ t.readBit ++ t.flush
/-- `PROLOG_CMD(ab)` (R161). -/
def Templates.prologCmd (t : Templates) (ab : Byte) : Bytes := t.idle ++ t.start ++ t.wu ab
/-- `CHUNK_MID(s)` (R146). -/
def Templates.chunkMid (t : Templates) (s : Nat) : Bytes := rep s t.ruAck
/-- `CHUNK_LAST(s)` (R146). -/
def Templates.chunkLast (t : Templates) (s : Nat) : Bytes := rep (s - 1) t.ruAck ++ t.ruNack ++ t.flush

/-- `CHUNK_MID(s)` through `CHUNK_CACHE` (R166): a hit is reused, a miss built and stored. -/
def cachedChunkMid (size : Nat) (s : State) : Bytes × State :=
  match mapGet size s.chunkCache with
  | some buffer => (buffer, s)
  | none => (s.tpl.chunkMid size, s.setCache (mapPut size (s.tpl.chunkMid size) s.chunkCache))

end Sys2Proof.Machine
end

