-- ==== Sys2Proof/Machine/Phases.lean ====
section
/-! DEFINITION. The transaction sequencer (41_phases.md): the phase procedures, the attempt and the retry loop,
each as its pseudocode states it. -/

namespace Sys2Proof.Machine

/-- One round trip: send a buffer, then receive. A failed send is `Transport` and nothing is requested
(60_exceptions.md R266 c). -/
def roundTrip (buffer : Bytes) (n budget : Nat) (s : State) (k : Bytes → State → Proc PhaseOutcome) :
    Proc PhaseOutcome :=
  (memWrite buffer s).andThen fun ok s =>
    if ok then (memRead n budget s).andThen k else .done .transport s

/-- `PROLOG(ab)` (R161). -/
def prolog (ab : Byte) (s : State) : Proc PhaseOutcome :=
  roundTrip (s.tpl.prologCmd ab) 1 s.par.rxBudget (s.setPhase .prolog) ackTest

/-- `EPILOG()` (R162): the reply is discarded, whatever its length. -/
def epilog (s : State) : Proc PhaseOutcome :=
  roundTrip s.tpl.stop 1 s.par.rxBudgetEpilog (s.setPhase .epilog) fun _ s => .done (.acked []) s

/-- The loop of `WRITE_PHASE` (R163). -/
def writeBytes : Bytes → State → Proc PhaseOutcome
  | [], s => .done (.acked []) s
  | b :: rest, s =>
    roundTrip (s.tpl.wu b) 1 s.par.rxBudget s fun r s =>
      (ackTest r s).andThen fun o s =>
        match o with
        | .acked _ => writeBytes rest s
        | .nack => .done .nack s
        | .transport => .done .transport s

/-- `WRITE_PHASE(out)` (R163). -/
def writePhase (out : Bytes) (s : State) : Proc PhaseOutcome := writeBytes out (s.setPhase .payload)

/-- The next chunk of a read (R164): its size, its buffer, and the state after `CHUNK_CACHE` was used. -/
def nextChunk (s : State) : Nat × Bytes × State :=
  if (s.txn.rem : Int) > s.chunkSize then
    (s.chunkSize.toNat, (cachedChunkMid s.chunkSize.toNat s).1, (cachedChunkMid s.chunkSize.toNat s).2)
  else (s.txn.rem, s.tpl.chunkLast s.txn.rem, s)

/-- A received chunk of `size` bytes is appended to `RBUF`. -/
def takeChunk (size : Nat) (r : Bytes) (s : State) : State :=
  s.setTxn { s.txn with rbuf := s.txn.rbuf ++ r, rem := s.txn.rem - size }

/-- The loop of `READ_PHASE` (R164), at most `fuel` chunks. -/
def readChunks : Nat → State → Proc PhaseOutcome
  | 0, s => .done (.acked s.txn.rbuf) s
  | fuel + 1, s =>
    if s.txn.rem = 0 then .done (.acked s.txn.rbuf) s
    else
      roundTrip (nextChunk s).2.1 (nextChunk s).1 s.par.rxBudget (nextChunk s).2.2 fun r t =>
        if r.length < (nextChunk s).1 then .done .transport t
        else readChunks fuel (takeChunk (nextChunk s).1 r t)

/-- `READ_PHASE(n)` (R164). Where `CHUNK_SIZE ≥ 1` every chunk has a byte, so `n` chunks are enough. -/
def readPhase (n : Nat) (s : State) : Proc PhaseOutcome :=
  readChunks n ((s.setPhase .payload).setTxn { s.txn with rem := n, rbuf := [] })

/-- Go on after `Acked`; the first other outcome is the body's (R168). -/
def ifAcked (r : Proc PhaseOutcome) (k : State → Proc PhaseOutcome) : Proc PhaseOutcome :=
  r.andThen fun o s =>
    match o with
    | .acked _ => k s
    | .nack => .done .nack s
    | .transport => .done .transport s

/-- The address byte `poll` sends: `AB_R` or `AB_W` as `POLL_RW` says (10_state.md R28). -/
def pollByte (s : State) : Byte := if s.par.pollRw then s.txn.abR else s.txn.abW

/-- The body of an attempt (R168). -/
def body (s : State) : Proc PhaseOutcome :=
  match s.txn.op with
  | .read => ifAcked (prolog s.txn.abR s) fun s => readPhase s.txn.rlen s
  | .write => ifAcked (prolog s.txn.abW s) fun s => writePhase s.txn.out s
  | .exchange =>
    ifAcked (prolog s.txn.abW s) fun s =>
      ifAcked (writePhase s.txn.out s) fun s =>
        ifAcked (prolog s.txn.abR s) fun s => readPhase s.txn.rlen s
  | .poll => prolog (pollByte s) s

/-- The outcome of an attempt from its body's and its epilog's (R169): `Transport` if either is. -/
def attemptOutcome (b e : PhaseOutcome) : PhaseOutcome :=
  if b = .transport ∨ e = .transport then .transport else b

/-- What an attempt leaves of the bytes read: nothing unless it ended in `Acked` (R267 (4)). -/
def settleRead (o : PhaseOutcome) (s : State) : State :=
  match o with
  | .acked _ => s
  | .nack | .transport => discardRead s

/-- One attempt (R169): the epilog always follows the body. -/
def attemptOnce (s : State) : Proc PhaseOutcome :=
  (body s).andThen fun b s =>
    (epilog s).andThen fun e s => .done (attemptOutcome b e) (settleRead (attemptOutcome b e) s)

/-- The retry loop (R170) of `budget` attempts, at most `fuel` of them: another attempt follows a `Nack` while
`ATTEMPT < budget`. -/
def attemptsFuel (budget : Nat) : Nat → State → Proc PhaseOutcome
  | 0, s => .done .nack s
  | fuel + 1, s =>
    (attemptOnce s).andThen fun o s =>
      if o = .nack ∧ s.attempt < budget then attemptsFuel budget fuel (s.setAttempt (s.attempt + 1))
      else .done o s

/-- The attempts of an operation, `budget` at most; `ATTEMPT` starts at 1. -/
def attempts (budget : Nat) (s : State) : Proc PhaseOutcome := attemptsFuel budget budget (s.setAttempt 1)

/-- The result of `read`, `write` and `exchange` (R170). `write` has no value. -/
def resultOf (op : BusOp) (o : PhaseOutcome) : Result :=
  match o with
  | .acked d => .ok (if op = .write then .none else .bytes d)
  | .nack => .err .negativeAcknowledgement
  | .transport => .err .transportError

/-- The result of `poll` (R170): a refusal is "not present". -/
def pollResultOf (o : PhaseOutcome) : Result :=
  match o with
  | .acked _ => .ok (.bool true)
  | .nack => .ok (.bool false)
  | .transport => .err .transportError

/-- `RUN(op)` (R170): up to `ATTEMPTS_MAX` attempts. -/
def run (s : State) : Proc Result :=
  (attempts Config.attemptsMax s).andThen fun o t => .done (resultOf s.txn.op o) t

/-- `RUN_POLL()` (R170): `POLL_ATTEMPTS` attempts, one. -/
def runPoll (s : State) : Proc Result :=
  (attempts Config.pollAttempts s).andThen fun o t => .done (pollResultOf o) t

end Sys2Proof.Machine
end

