-- ==== Sys2Proof/Machine/Bus.lean ====
section
/-! DEFINITION. The bus operations (42_operations.md R191 to R194). -/

namespace Sys2Proof.Machine

/-- A bus operation: a failed validation ends it with its error, before any call and with no change of state;
else it writes the transaction registers and runs. -/
def validated (e : Option ErrKind) (s : State) (k : Operation) : Operation :=
  match e with
  | some kind => endWith (.err kind) s
  | none => k

/-- A read phase needs `CHUNK_SIZE ≥ 1` (R308); the spec refuses the operation otherwise (93 U2). -/
def needsChunks (s : State) (k : Operation) : Operation :=
  if 1 ≤ s.chunkSize then k else .refused .chunkSizeNotPositive

/-- `read(address, n)` (R191). -/
def readOp (address n : Nat) (s : State) : Operation :=
  whenFree s <| validated (validateRead address n s) s <| needsChunks s <|
    .running (run (s.setTxn { s.txn with op := .read, abR := addressByte address true, rlen := n }))

/-- `write(address, bytes)` (R192). -/
def writeOp (address : Nat) (out : Bytes) (s : State) : Operation :=
  whenFree s <| validated (validateWrite address out s) s <|
    .running (run (s.setTxn { s.txn with op := .write, abW := addressByte address false, out := out }))

/-- `exchange(address, bytes, n)` (R193). -/
def exchangeOp (address : Nat) (out : Bytes) (n : Nat) (s : State) : Operation :=
  whenFree s <| validated (validateExchange address out n s) s <| needsChunks s <|
    .running (run (s.setTxn { s.txn with
      op := .exchange, abW := addressByte address false, abR := addressByte address true
      out := out, rlen := n }))

/-- The transaction registers `poll` writes: `OP`, and the address byte of the direction `POLL_RW` (R194, R28). -/
def pollTxn (pollRw : Bool) (address : Nat) (t : Transaction) : Transaction :=
  if pollRw then { t with op := .poll, abR := addressByte address true }
  else { t with op := .poll, abW := addressByte address false }

/-- `poll(address)` (R194). -/
def pollOp (address : Nat) (s : State) : Operation :=
  whenFree s <| validated (validatePoll address s) s <|
    .running (runPoll (s.setTxn (pollTxn s.par.pollRw address s.txn)))

/-! ### The instructions -/

/-- READ (R191). -/
def execRead (address n : Nat) (s : State) : Host.Outcome State Fault Refusal := (readOp address n s).outcome

/-- WRITE (R192). -/
def execWrite (address : Nat) (bytes : Bytes) (s : State) : Host.Outcome State Fault Refusal :=
  (writeOp address bytes s).outcome

/-- EXCHANGE (R193). -/
def execExchange (address : Nat) (bytes : Bytes) (n : Nat) (s : State) : Host.Outcome State Fault Refusal :=
  (exchangeOp address bytes n s).outcome

/-- POLL (R194). -/
def execPoll (address : Nat) (s : State) : Host.Outcome State Fault Refusal := (pollOp address s).outcome

end Sys2Proof.Machine
end

