-- ==== Sys2Proof/Machine/Management.lean ====
section
/-! DEFINITION. The management operations (43_management.md R220 to R225). None runs a prolog or an epilog. -/

namespace Sys2Proof.Machine

/-- What a successful `configure` writes (R220): BusConfig, the templates, `CHUNK_SIZE`, an empty
`CHUNK_CACHE`, and last `CONFIGURED`. -/
def establish (freq : Freq) (txCap rxCap : Nat) (s : State) : State :=
  ((((s.setBus ⟨s.par.pins, freq, txCap, rxCap⟩).setTemplates (buildTemplates s.par)).setChunkSize
    (chunkSizeOf (buildTemplates s.par) txCap rxCap)).setCache []).setConfigured true

/-- `f_req`: the requested bus frequency times `FREQ_SCALE` (R220). -/
def scaledFreq (busFrequency : Freq) : Freq := busFrequency * Config.freqScale

/-- The entry of a clock table, or the clock itself. -/
def tableClock (requested : Freq) : List (Freq × Freq) → Freq
  | [] => requested
  | (f, g) :: rest => if f = requested then g else tableClock requested rest

/-- `CE_CLOCK(requested)` (R220, D16). -/
def achievedClock (requested : Freq) : CeClock → Freq
  | .listed rows => tableClock requested rows
  | .engine => Config.ceClock requested

/-- `configure` (R220). -/
def configureRun (busFrequency : Freq) (driveZeroRequired : Bool) (s : State) : Proc Result :=
  (callConnect (scaledFreq busFrequency) s).andThen fun c s =>
    match c with
    | none => .done (.err .transportError) (s.setConfigured false)
    | some (tx, rx) =>
      (callSetOutputLevels s).andThen fun _ s =>
      (callSetClockPhaseMode s).andThen fun _ s =>
      (callSetDriveZeroMode s).andThen fun z s =>
        if !z && driveZeroRequired then
          (callClose s).andThen fun _ s => .done (.err .configurationError) (s.setConfigured false)
        else
          .done (.ok (.freq (achievedClock (scaledFreq busFrequency) s.par.ceClock)))
            (establish (achievedClock (scaledFreq busFrequency) s.par.ceClock) tx rx s)

/-- `terminate` (R221). `FREQ` is any value afterwards (U12). -/
def terminateRun (s : State) : Proc Result :=
  if s.configured then
    (callClose s).andThen fun _ s =>
      .done (.ok .none)
        ((((s.setConfigured false).setCache []).setBus
          { s.bus with freq := Config.freqAfterTerminate s.freeDraws }).drawFreq)
  else .done (.ok .none) s

/-- `getSlave` (R222): a handle is created for an address that has none. -/
def getSlaveRun (address : Nat) (s : State) : Proc Result :=
  match firstError [addressCheck address, configuredCheck s] with
  | some k => .done (.err k) s
  | none =>
    match mapGet address s.slaves with
    | some h => .done (.ok (.handle h.base)) s
    | none => .done (.ok (.handle address)) (s.setSlaves (mapPut address (Handle.fresh address) s.slaves))

/-- `flush` (R223): one `FLUSH` unit is sent and nothing received. -/
def flushRun (s : State) : Proc Result :=
  match firstError [configuredCheck s] with
  | some k => .done (.err k) s
  | none =>
    (memWrite s.tpl.flush s).andThen fun ok s =>
      if ok then .done (.ok .none) s else .done (.err .transportError) s

/-! ### The operations -/

def configureOp (busFrequency : Freq) (driveZeroRequired : Bool) (s : State) : Operation :=
  whenFree s (.running (configureRun busFrequency driveZeroRequired s))

def terminateOp (s : State) : Operation := whenFree s (.running (terminateRun s))

def getSlaveOp (address : Nat) (s : State) : Operation := whenFree s (.running (getSlaveRun address s))

def flushHostOp (s : State) : Operation := whenFree s (.running (flushRun s))

/-- `frequency` (R224): `FREQ`, in either mode. -/
def frequencyOp (s : State) : Operation := whenFree s (endWith (.ok (.freq s.bus.freq)) s)

/-- `frequencyMax` (R225): the parameter `FREQ_MAX`, in either mode. -/
def frequencyMaxOp (s : State) : Operation := whenFree s (endWith (.ok (.freq Config.freqMax)) s)

/-! ### The instructions -/

/-- CONFIGURE (R220). -/
def execConfigure (busFrequency : Freq) (driveZeroRequired : Bool) (s : State) :
    Host.Outcome State Fault Refusal :=
  (configureOp busFrequency driveZeroRequired s).outcome

/-- TERMINATE (R221). -/
def execTerminate (s : State) : Host.Outcome State Fault Refusal := (terminateOp s).outcome

/-- GET_SLAVE (R222). -/
def execGetSlave (address : Nat) (s : State) : Host.Outcome State Fault Refusal := (getSlaveOp address s).outcome

/-- FLUSH_OP (R223). -/
def execFlushOp (s : State) : Host.Outcome State Fault Refusal := (flushHostOp s).outcome

/-- FREQUENCY (R224). -/
def execFrequency (s : State) : Host.Outcome State Fault Refusal := (frequencyOp s).outcome

/-- FREQUENCY_MAX (R225). -/
def execFrequencyMax (s : State) : Host.Outcome State Fault Refusal := (frequencyMaxOp s).outcome

end Sys2Proof.Machine
end

