-- ==== Sys2Proof/Machine/Slave.lean ====
section
/-! DEFINITION. The Slave Handle operations (44_slave_handle.md R241 to R250): two that write the handle, the
others forwarding to the Bus Master with the effective address. -/

namespace Sys2Proof.Machine

/-- The operation on the handle with this `BASE`; a handle `getSlave` never returned has no meaning (U17). -/
def withHandle (handle : Nat) (s : State) (k : Handle → Operation) : Operation :=
  whenFree s <|
    match mapGet handle s.slaves with
    | some h => k h
    | none => .refused .unknownHandle

/-- The operation with the register-address prefix; an address that does not fit is refused (U5). -/
def withPrefix (h : Handle) (regAddr : Nat) (k : Bytes → Operation) : Operation :=
  match regEnc h regAddr with
  | some p => k p
  | none => .refused .registerAddressTooWide

/-- The handle is written back under its key. -/
def putHandle (handle : Nat) (h : Handle) (s : State) : State := s.setSlaves (mapPut handle h s.slaves)

/-! ### The operations -/

/-- `configureRegister(bigEndian, width)` (R241). -/
def sConfigureRegisterOp (handle : Nat) (bigEndian : Bool) (width : Nat) (s : State) : Operation :=
  withHandle handle s fun h =>
    if width ∈ Config.regWidths then
      endWith (.ok .none) (putHandle handle { h with regBig := bigEndian, regWidth := width } s)
    else endWith (.err .configurationError) s

/-- `shiftAddress(offset)` (R242): the offset replaces the previous one. -/
def sShiftAddressOp (handle offset : Nat) (s : State) : Operation :=
  withHandle handle s fun h =>
    if h.base + offset ≤ Config.addrMax then
      endWith (.ok .none) (putHandle handle { h with offset := offset } s)
    else endWith (.err .configurationError) s

/-- `readFrom(regAddr, n)` (R244): `EXCHANGE(EA, REGENC(regAddr), n)`. -/
def sReadFromOp (handle regAddr n : Nat) (s : State) : Operation :=
  withHandle handle s fun h => withPrefix h regAddr fun p => exchangeOp h.ea p n s

/-- `writeTo(regAddr, out)` (R245): `WRITE(EA, REGENC(regAddr) ++ out)`. -/
def sWriteToOp (handle regAddr : Nat) (out : Bytes) (s : State) : Operation :=
  withHandle handle s fun h => withPrefix h regAddr fun p => writeOp h.ea (p ++ out) s

/-- `read(n)` (R246). -/
def sReadOp (handle n : Nat) (s : State) : Operation := withHandle handle s fun h => readOp h.ea n s

/-- `write(out)` (R247). -/
def sWriteOp (handle : Nat) (out : Bytes) (s : State) : Operation :=
  withHandle handle s fun h => writeOp h.ea out s

/-- `exchange(out, n)` (R248). -/
def sExchangeOp (handle : Nat) (out : Bytes) (n : Nat) (s : State) : Operation :=
  withHandle handle s fun h => exchangeOp h.ea out n s

/-- `poll()` (R249). -/
def sPollOp (handle : Nat) (s : State) : Operation := withHandle handle s fun h => pollOp h.ea s

/-- `flush()` (R250): the handle's address plays no part. -/
def sFlushOp (handle : Nat) (s : State) : Operation := withHandle handle s fun _ => flushHostOp s

/-! ### The instructions -/

/-- S_CONFIGURE_REGISTER (R241). -/
def execSConfigureRegister (handle : Nat) (bigEndian : Bool) (width : Nat) (s : State) :
    Host.Outcome State Fault Refusal :=
  (sConfigureRegisterOp handle bigEndian width s).outcome

/-- S_SHIFT_ADDRESS (R242). -/
def execSShiftAddress (handle offset : Nat) (s : State) : Host.Outcome State Fault Refusal :=
  (sShiftAddressOp handle offset s).outcome

/-- S_READ_FROM (R244). -/
def execSReadFrom (handle regAddr n : Nat) (s : State) : Host.Outcome State Fault Refusal :=
  (sReadFromOp handle regAddr n s).outcome

/-- S_WRITE_TO (R245). -/
def execSWriteTo (handle regAddr : Nat) (out : Bytes) (s : State) : Host.Outcome State Fault Refusal :=
  (sWriteToOp handle regAddr out s).outcome

/-- S_READ (R246). -/
def execSRead (handle n : Nat) (s : State) : Host.Outcome State Fault Refusal := (sReadOp handle n s).outcome

/-- S_WRITE (R247). -/
def execSWrite (handle : Nat) (out : Bytes) (s : State) : Host.Outcome State Fault Refusal :=
  (sWriteOp handle out s).outcome

/-- S_EXCHANGE (R248). -/
def execSExchange (handle : Nat) (out : Bytes) (n : Nat) (s : State) : Host.Outcome State Fault Refusal :=
  (sExchangeOp handle out n s).outcome

/-- S_POLL (R249). -/
def execSPoll (handle : Nat) (s : State) : Host.Outcome State Fault Refusal := (sPollOp handle s).outcome

/-- S_FLUSH (R250). -/
def execSFlush (handle : Nat) (s : State) : Host.Outcome State Fault Refusal := (sFlushOp handle s).outcome

end Sys2Proof.Machine
end

