-- ==== Sys2Proof/Machine/Dispatch.lean ====
section
/-! DEFINITION. One arm per constructor of `Instr`, each one call of its meaning. -/

namespace Sys2Proof.Machine

def exec (i : Instr) (s : State) : Host.Outcome State Fault Refusal :=
  match i with
  -- HOST
  | .configure busFrequency driveZeroRequired => Sys2Proof.Machine.execConfigure busFrequency driveZeroRequired s
  | .terminate => Sys2Proof.Machine.execTerminate s
  | .getSlave address => Sys2Proof.Machine.execGetSlave address s
  | .read address n => Sys2Proof.Machine.execRead address n s
  | .write address bytes => Sys2Proof.Machine.execWrite address bytes s
  | .exchange address bytes n => Sys2Proof.Machine.execExchange address bytes n s
  | .poll address => Sys2Proof.Machine.execPoll address s
  | .flushOp => Sys2Proof.Machine.execFlushOp s
  | .frequency => Sys2Proof.Machine.execFrequency s
  | .frequencyMax => Sys2Proof.Machine.execFrequencyMax s
  -- SLAVE
  | .sConfigureRegister handle bigEndian width => Sys2Proof.Machine.execSConfigureRegister handle bigEndian width s
  | .sShiftAddress handle offset => Sys2Proof.Machine.execSShiftAddress handle offset s
  | .sReadFrom handle regAddr n => Sys2Proof.Machine.execSReadFrom handle regAddr n s
  | .sWriteTo handle regAddr out => Sys2Proof.Machine.execSWriteTo handle regAddr out s
  | .sRead handle n => Sys2Proof.Machine.execSRead handle n s
  | .sWrite handle out => Sys2Proof.Machine.execSWrite handle out s
  | .sExchange handle out n => Sys2Proof.Machine.execSExchange handle out n s
  | .sPoll handle => Sys2Proof.Machine.execSPoll handle s
  | .sFlush handle => Sys2Proof.Machine.execSFlush handle s
  -- CU
  | .idle v d => Sys2Proof.Machine.execIdle v d s
  | .dataLow v d => Sys2Proof.Machine.execDataLow v d s
  | .clkDataLow v d => Sys2Proof.Machine.execClkDataLow v d s
  | .clkLowDataHigh v d => Sys2Proof.Machine.execClkLowDataHigh v d s
  | .writeByte b => Sys2Proof.Machine.execWriteByte b s
  | .readBit => Sys2Proof.Machine.execReadBit s
  | .flush => Sys2Proof.Machine.execFlush s
  | .readByte => Sys2Proof.Machine.execReadByte s
  | .ack => Sys2Proof.Machine.execAck s
  | .nack => Sys2Proof.Machine.execNack s
  -- TPL
  | .start => Sys2Proof.Machine.execStart s
  | .stop => Sys2Proof.Machine.execStop s
  | .wu b => Sys2Proof.Machine.execWu b s
  | .ruAck => Sys2Proof.Machine.execRuAck s
  | .ruNack => Sys2Proof.Machine.execRuNack s
  | .prologCmd a r => Sys2Proof.Machine.execPrologCmd a r s
  | .chunkMid n => Sys2Proof.Machine.execChunkMid n s
  | .chunkLast n => Sys2Proof.Machine.execChunkLast n s

end Sys2Proof.Machine
end

