-- ==== Sys2Proof/WellFormed.lean ====
section
/-! DEFINITION. Which terms of `Instr` stand for an instruction at all. An argument that the spec answers
with an error (an address above 0x7F, a width of 3, an empty payload) is well formed: it is a request with a
defined result. -/

namespace Sys2Proof

/-- A pin-set unit is named by the levels it puts on clock and data (R95), at the default pins, which are those of
the opcode table; a chunk has at least one read unit (R146, opcode table). -/
def Instr.wellFormed : Instr → Bool
  | .idle v d => Machine.sclLevel Config.pins v d && Machine.sdaLevel Config.pins v d
  | .dataLow v d => Machine.sclLevel Config.pins v d && !Machine.sdaLevel Config.pins v d
  | .clkDataLow v d => !Machine.sclLevel Config.pins v d && !Machine.sdaLevel Config.pins v d
  | .clkLowDataHigh v d => !Machine.sclLevel Config.pins v d && Machine.sdaLevel Config.pins v d
  | .chunkMid s => decide (1 ≤ s)
  | .chunkLast s => decide (1 ≤ s)
  | .configure .. | .terminate | .getSlave .. | .read .. | .write .. | .exchange .. | .poll .. | .flushOp
  | .frequency | .frequencyMax | .sConfigureRegister .. | .sShiftAddress .. | .sReadFrom .. | .sWriteTo .. | .sRead ..
  | .sWrite .. | .sExchange .. | .sPoll .. | .sFlush .. | .writeByte .. | .readBit | .flush | .readByte
  | .ack | .nack | .start | .stop | .wu .. | .ruAck | .ruNack | .prologCmd .. => true

end Sys2Proof
end

