-- ==== Sys2Proof/Decode.lean ====
section
/-! DEFINITION. Decoding of a request, total on any bytes, and the encoder.
Units and templates have the bytes of 30_encoding.md R96, R97 at the default parameters, those of the opcode table. `HOST` and `SLAVE`
requests have selectors (R91, R92) and abstract arguments; the bytes that carry them here are the model's own
layout (notes/assumptions/6.md): one selector byte, the `SLAVE` selectors offset by `slaveTag`, then the
arguments in order. A request holds exactly one instruction, zero bytes after it being padding. -/

namespace Sys2Proof

open Machine

/-! ### Arguments -/

/-- A natural number, low seven bits first, bit 7 of a byte set when more follow. -/
def putNatFuel : Nat → Nat → Bytes
  | 0, _ => []
  | fuel + 1, n =>
    if n < 128 then [BitVec.ofNat 8 n] else BitVec.ofNat 8 (n % 128 + 128) :: putNatFuel fuel (n / 128)

def putNat (n : Nat) : Bytes := putNatFuel (n + 1) n

def getNat : Bytes → Option (Nat × Bytes)
  | [] => none
  | b :: rest =>
    if b.toNat < 128 then some (b.toNat, rest)
    else
      match getNat rest with
      | some (hi, r) => some (b.toNat - 128 + 128 * hi, r)
      | none => none

/-- A Boolean: one byte, 0 or 1. -/
def putBool (b : Bool) : Bytes := [if b then 1 else 0]

def getBool : Bytes → Option (Bool × Bytes)
  | [] => none
  | b :: rest => if b = 0 then some (false, rest) else if b = 1 then some (true, rest) else none

/-- A byte string: its length, then its bytes. -/
def putBytes (bs : Bytes) : Bytes := putNat bs.length ++ bs

def getBytes (bs : Bytes) : Option (Bytes × Bytes) :=
  match getNat bs with
  | some (n, rest) => if n ≤ rest.length then some (rest.take n, rest.drop n) else none
  | none => none

/-- A non-negative rational: numerator, then denominator minus one. -/
def putFreq (f : Freq) : Bytes := putNat f.1.num.toNat ++ putNat (f.1.den - 1)

/-- `num / (den + 1)`. -/
def freqOf (num den : Nat) : Freq := ⟨mkRat num (den + 1), by rw [Rat.mkRat_eq_div]; positivity⟩

def getFreq (bs : Bytes) : Option (Freq × Bytes) :=
  match getNat bs with
  | some (num, r1) =>
    match getNat r1 with
    | some (den, r2) => some (freqOf num den, r2)
    | none => none
  | none => none

/-! ### Argument lists -/

def getNat2 (bs : Bytes) : Option (Nat × Nat × Bytes) :=
  match getNat bs with
  | some (a, r) => match getNat r with
    | some (b, r) => some (a, b, r)
    | none => none
  | none => none

def getNatBytes (bs : Bytes) : Option (Nat × Bytes × Bytes) :=
  match getNat bs with
  | some (a, r) => match getBytes r with
    | some (b, r) => some (a, b, r)
    | none => none
  | none => none

/-! ### HOST and SLAVE requests (R91, R92) -/

/-- The `SLAVE` selectors of R92 stand at `0x40 + sop`, so that one byte tells the formats apart. -/
def slaveTag : Nat := 0x40

/-- `HOST` requests by selector (R91); selectors 10 to 15 are unused (R99 f). -/
def parseHost (op : Nat) (bs : Bytes) : Option (Instr × Bytes) :=
  match op with
  | 0 => match getFreq bs with
    | some (f, r) => match getBool r with
      | some (z, r) => some (.configure f z, r)
      | none => none
    | none => none
  | 1 => some (.terminate, bs)
  | 2 => (getNat bs).map fun (a, r) => (.getSlave a, r)
  | 3 => (getNat2 bs).map fun (a, n, r) => (.read a n, r)
  | 4 => (getNatBytes bs).map fun (a, out, r) => (.write a out, r)
  | 5 => match getNatBytes bs with
    | some (a, out, r) => (getNat r).map fun (n, r) => (.exchange a out n, r)
    | none => none
  | 6 => (getNat bs).map fun (a, r) => (.poll a, r)
  | 7 => some (.flushOp, bs)
  | 8 => some (.frequency, bs)
  | 9 => some (.frequencyMax, bs)
  | _ => none

/-- `SLAVE` requests by selector (R92); selectors 9 and above are unused (R99 f). -/
def parseSlave (sop : Nat) (bs : Bytes) : Option (Instr × Bytes) :=
  match sop with
  | 0 => match getNat bs with
    | some (h, r) => match getBool r with
      | some (big, r) => (getNat r).map fun (w, r) => (.sConfigureRegister h big w, r)
      | none => none
    | none => none
  | 1 => (getNat2 bs).map fun (h, o, r) => (.sShiftAddress h o, r)
  | 2 => match getNat2 bs with
    | some (h, a, r) => (getNat r).map fun (n, r) => (.sReadFrom h a n, r)
    | none => none
  | 3 => match getNat bs with
    | some (h, r) => (getNatBytes r).map fun (a, out, r) => (.sWriteTo h a out, r)
    | none => none
  | 4 => (getNat2 bs).map fun (h, n, r) => (.sRead h n, r)
  | 5 => (getNatBytes bs).map fun (h, out, r) => (.sWrite h out, r)
  | 6 => match getNatBytes bs with
    | some (h, out, r) => (getNat r).map fun (n, r) => (.sExchange h out n, r)
    | none => none
  | 7 => (getNat bs).map fun (h, r) => (.sPoll h, r)
  | 8 => (getNat bs).map fun (h, r) => (.sFlush h, r)
  | _ => none

/-! ### Units and templates (R94 to R97) -/

def startBytes : Bytes := unitsBytes Config.params startUnits
def stopBytes : Bytes := unitsBytes Config.params (stopUnits Config.params)
def ruAckBytes : Bytes := unitsBytes Config.params ruAckUnits
def ruNackBytes : Bytes := unitsBytes Config.params ruNackUnits
/-- What stands before the address byte of a prolog, and what stands after a written byte. -/
def prologHead : Bytes := unitsBytes Config.params (.idle :: startUnits) ++ Config.enc.writeByte
def ackTail : Bytes := unitsBytes Config.params [.readBit, .flush]

/-- The pin-set row that sets these levels (R95): the four rows share one bit pattern and differ in the levels
of the clock and data-out bits (notes/assumptions/7.md). -/
def pinSetInstr (v d : Byte) : Instr :=
  match sclLevel Config.pins v d, sdaLevel Config.pins v d with
  | true, true => .idle v d
  | true, false => .dataLow v d
  | false, false => .clkDataLow v d
  | false, true => .clkLowDataHigh v d

/-- The row of a unit; a pin set at the operands of R95. -/
def unitInstr : CmdUnit → Instr
  | .idle => .idle (idleValue Config.pins) Config.pins.direction
  | .dataLow => .dataLow (dataLowValue Config.pins) Config.pins.direction
  | .clkDataLow => .clkDataLow (clkDataLowValue Config.pins) Config.pins.direction
  | .clkLowDataHigh => .clkLowDataHigh (clkLowDataHighValue Config.pins) Config.pins.direction
  | .writeByte b => .writeByte b
  | .readBit => .readBit
  | .readByte => .readByte
  | .ack => .ack
  | .nack => .nack
  | .flush => .flush

/-- A pin set with its two operand bytes: `80 vv dd` (R96). -/
def parsePinSet (bs : Bytes) : Option (Instr × Bytes) :=
  match dropPrefix [0x80] bs with
  | some (v :: d :: r) => some (pinSetInstr v d, r)
  | _ => none

def parseProlog (bs : Bytes) : Option (Instr × Bytes) :=
  match dropPrefix prologHead bs with
  | some (ab :: r) => (dropPrefix ackTail r).map fun r => (.prologCmd (ab.extractLsb' 1 7) (ab.getLsbD 0), r)
  | _ => none

def parseWu (bs : Bytes) : Option (Instr × Bytes) :=
  match dropPrefix Config.enc.writeByte bs with
  | some (b :: r) => (dropPrefix ackTail r).map fun r => (.wu b, r)
  | _ => none

/-- Count the ack-terminated read units at the front, at most `fuel` of them. -/
def countAcks : Nat → Bytes → Nat × Bytes
  | 0, bs => (0, bs)
  | fuel + 1, bs =>
    match dropPrefix ruAckBytes bs with
    | some r => ((countAcks fuel r).1 + 1, (countAcks fuel r).2)
    | none => (0, bs)

/-- The read-unit templates (R144, R146). One ack-terminated unit is both `RU_ACK` and `CHUNK_MID(1)`; it is
read as `RU_ACK` (notes/assumptions/7.md). -/
def parseReadUnits (bs : Bytes) : Option (Instr × Bytes) :=
  match countAcks bs.length bs with
  | (k, r) =>
    match dropPrefix (ruNackBytes ++ unitBytes Config.params .flush) r with
    | some r' => some (.chunkLast (k + 1), r')
    | none =>
      match k with
      | 0 => (dropPrefix ruNackBytes r).map fun r' => (.ruNack, r')
      | 1 => some (.ruAck, r)
      | k => some (.chunkMid k, r)

/-- The longest command at the front: a template before its first unit. -/
def parseCommand (bs : Bytes) : Option (Instr × Bytes) :=
  (parseProlog bs).or <|
  ((dropPrefix stopBytes bs).map fun r => (Instr.stop, r)).or <|
  ((dropPrefix startBytes bs).map fun r => (Instr.start, r)).or <|
  (parseReadUnits bs).or <|
  (parseWu bs).or <|
  (parsePinSet bs).or <|
  (parseUnit Config.params bs).map fun (u, r) => (unitInstr u, r)

/-! ### Decode -/

/-- The format the first byte announces. -/
def formatOf (b : Byte) : Format :=
  if b.toNat < 0x10 then .host else if 0x40 ≤ b.toNat ∧ b.toNat < 0x50 then .slave else .command

/-- Read one instruction from the front. -/
def parse (bs : Bytes) : Option (Instr × Bytes) :=
  match bs with
  | [] => none
  | b :: rest =>
    match formatOf b with
    | .host => parseHost b.toNat rest
    | .slave => parseSlave (b.toNat - slaveTag) rest
    | .command => parseCommand bs

/-- The instruction a request holds; `none` is an illegal request (R99 f): no instruction at the front, an
ill-formed one, or something other than zero padding behind it. -/
def decode (bs : Bytes) : Option Instr :=
  match parse bs with
  | some (i, rest) => if rest.all (· == 0) && i.wellFormed then some i else none
  | none => none

/-! ### Encode -/

def hostBytes (op : Nat) (args : Bytes) : Bytes := BitVec.ofNat 8 op :: args
def slaveBytes (sop : Nat) (args : Bytes) : Bytes := BitVec.ofNat 8 (slaveTag + sop) :: args

/-- The bytes of an instruction. -/
def encode : Instr → Bytes
  | .configure f z => hostBytes 0 (putFreq f ++ putBool z)
  | .terminate => hostBytes 1 []
  | .getSlave a => hostBytes 2 (putNat a)
  | .read a n => hostBytes 3 (putNat a ++ putNat n)
  | .write a out => hostBytes 4 (putNat a ++ putBytes out)
  | .exchange a out n => hostBytes 5 (putNat a ++ putBytes out ++ putNat n)
  | .poll a => hostBytes 6 (putNat a)
  | .flushOp => hostBytes 7 []
  | .frequency => hostBytes 8 []
  | .frequencyMax => hostBytes 9 []
  | .sConfigureRegister h big w => slaveBytes 0 (putNat h ++ putBool big ++ putNat w)
  | .sShiftAddress h o => slaveBytes 1 (putNat h ++ putNat o)
  | .sReadFrom h a n => slaveBytes 2 (putNat h ++ putNat a ++ putNat n)
  | .sWriteTo h a out => slaveBytes 3 (putNat h ++ putNat a ++ putBytes out)
  | .sRead h n => slaveBytes 4 (putNat h ++ putNat n)
  | .sWrite h out => slaveBytes 5 (putNat h ++ putBytes out)
  | .sExchange h out n => slaveBytes 6 (putNat h ++ putBytes out ++ putNat n)
  | .sPoll h => slaveBytes 7 (putNat h)
  | .sFlush h => slaveBytes 8 (putNat h)
  | .idle v d => pinSetBytes Config.enc.idle v d
  | .dataLow v d => pinSetBytes Config.enc.dataLow v d
  | .clkDataLow v d => pinSetBytes Config.enc.clkDataLow v d
  | .clkLowDataHigh v d => pinSetBytes Config.enc.clkLowDataHigh v d
  | .writeByte b => unitBytes Config.params (.writeByte b)
  | .readBit => unitBytes Config.params .readBit
  | .flush => unitBytes Config.params .flush
  | .readByte => unitBytes Config.params .readByte
  | .ack => unitBytes Config.params .ack
  | .nack => unitBytes Config.params .nack
  | .start => startBytes
  | .stop => stopBytes
  | .wu b => unitsBytes Config.params (wuUnits b)
  | .ruAck => ruAckBytes
  | .ruNack => ruNackBytes
  | .prologCmd a r => unitsBytes Config.params (prologUnits (addressByte a.toNat r))
  | .chunkMid s => unitsBytes Config.params (chunkMidUnits s)
  | .chunkLast s => unitsBytes Config.params (chunkLastUnits s)

/-! ### Words of the opcode table -/

/-- The bytes of a table word, the first byte of the instruction the most significant: the table reads a row's
bytes as one number with its last bit lowest (98_reader.md; `IDLE` is `80 vv dd` with `d` at bits 7:0). -/
def wordBytes (nbits w : Nat) : Bytes :=
  (List.range ((nbits + 7) / 8)).reverse.map fun i => BitVec.ofNat 8 (w >>> (8 * i))

/-- Zero operand bytes behind a table word: more than any request whose arguments are all zero needs. -/
def zeroOperands : Bytes := List.replicate 16 0

/-- The request a table word stands for, operand bytes zero. -/
def tableRequest (nbits w : Nat) : Bytes := wordBytes nbits w ++ zeroOperands

/-- What the decoder reads from a word of spec/opcode_table.json. -/
def decodeTableWord (nbits w : Nat) : Option Instr := decode (tableRequest nbits w)

end Sys2Proof
end

