-- ==== Sys2Proof/Machine/Fetch.lean ====
section
/-! DEFINITION. Fetching: the host's next request (00_scope.md R11, 20_memory.md R71). The block has no
instruction memory (10_state.md R35). -/

namespace Sys2Proof.Machine

/-- The next request, and the state once it is taken. -/
def fetch (s : State) : Option (Bytes × State) :=
  match s.requests with
  | [] => none
  | request :: rest => some (request, s.setRequests rest)

/-- Put a request where it is fetched next, on an engine that waits for no call. -/
def placeRequest (request : Bytes) (s : State) : State :=
  (s.setRequests (request :: s.requests)).setPending none

end Sys2Proof.Machine
end

