-- ==== Sys2Proof/Machine/Step.lean ====
section
/-! DEFINITION. One step of the host interface: the next request of the host is taken, decoded and executed to its
result, by as many steps of the engine as it makes Command Engine calls (`Proc.engineStep`, `Engine.lean`;
notes/assumptions/1.md). -/

namespace Sys2Proof.Machine

/-- An engine with a call that has not returned is stuck (20_memory.md R78). With no request it waits for the
host; nothing happens by itself (60_exceptions.md R265). -/
def step (s : State) : Host.Outcome State Fault Refusal :=
  match s.pending with
  | some _ => .fault .callNeverReturned
  | none =>
    match fetch s with
    | none => .next s
    | some (request, t) =>
      match decode request with
      | some i => exec i t
      | none => .refused .illegalRequest

/-- `s` with the instruction of a table word as the host's next request. -/
def State.withFetchWord (s : State) (nbits w : Nat) : State := placeRequest (tableRequest nbits w) s

end Sys2Proof.Machine
end

