-- ==== Sys2Proof/Machine/BusView.lean ====
section
/-! DEFINITION. The I2C view of a buffer: the unit sequence mapped to bus events by the table of
40_command_builder.md R147. A reference view of what the engine emits, not a property of the block. -/

namespace Sys2Proof.Machine

/-- The bus events of R147. -/
inductive BusEvent where
  /-- `S`: a start, a repeated start when a transaction is open. -/
  | start
  /-- `W(b)`. -/
  | write (b : Byte)
  /-- `A?`: the slave's acknowledge slot. -/
  | slaveAck
  /-- `R?`: a byte from the slave. -/
  | read
  /-- `MA`. -/
  | masterAck
  /-- `MN`. -/
  | masterNack
  /-- `P`. -/
  | stop
  deriving DecidableEq, Repr

/-- `us` without the prefix `p`. -/
def dropUnits : List CmdUnit → List CmdUnit → Option (List CmdUnit)
  | [], us => some us
  | _ :: _, [] => none
  | p :: ps, u :: us => if p = u then dropUnits ps us else none

/-- One line of the table at the front of a unit sequence: its events and what follows it. A unit that begins
no line has no event, as `FLUSH` has none. -/
def eventAt (P : Params) (us : List CmdUnit) : List BusEvent × List CmdUnit :=
  match dropUnits (.idle :: startUnits) us with
  | some r => ([.start], r)
  | none =>
    match dropUnits (stopUnits P) us with
    | some r => ([.stop], r)
    | none =>
      match us with
      | .writeByte b :: .readBit :: r => ([.write b, .slaveAck], r)
      | .readByte :: .ack :: .clkLowDataHigh :: r => ([.read, .masterAck], r)
      | .readByte :: .nack :: .clkLowDataHigh :: r => ([.read, .masterNack], r)
      | _ :: r => ([], r)
      | [] => ([], [])

/-- The events of a unit sequence, at most `fuel` lines of the table. -/
def eventsFuel (P : Params) : Nat → List CmdUnit → List BusEvent
  | 0, _ => []
  | fuel + 1, us => if us = [] then [] else (eventAt P us).1 ++ eventsFuel P fuel (eventAt P us).2

/-- The bus events of a unit sequence (R147). -/
def busEvents (P : Params) (us : List CmdUnit) : List BusEvent := eventsFuel P us.length us

end Sys2Proof.Machine
end

