-- ==== Sys2Proof/Machine/Engine.lean ====
section
/-! DEFINITION. The engine one Command Engine call at a time (00_scope.md R6, R11): what each host request starts, as
the procedure whose steps `Proc.engineStep` makes. `exec` runs the same procedures to their end. -/

namespace Sys2Proof.Machine

/-- What a `HOST` or `SLAVE` request starts. Units and templates are no requests of the host: the Command Engine
executes them (30_encoding.md R94). -/
def operationOf (i : Instr) (s : State) : Option Operation :=
  match i with
  | .configure busFrequency driveZeroRequired => some (configureOp busFrequency driveZeroRequired s)
  | .terminate => some (terminateOp s)
  | .getSlave address => some (getSlaveOp address s)
  | .read address n => some (readOp address n s)
  | .write address bytes => some (writeOp address bytes s)
  | .exchange address bytes n => some (exchangeOp address bytes n s)
  | .poll address => some (pollOp address s)
  | .flushOp => some (flushHostOp s)
  | .frequency => some (frequencyOp s)
  | .frequencyMax => some (frequencyMaxOp s)
  | .sConfigureRegister handle bigEndian width => some (sConfigureRegisterOp handle bigEndian width s)
  | .sShiftAddress handle offset => some (sShiftAddressOp handle offset s)
  | .sReadFrom handle regAddr n => some (sReadFromOp handle regAddr n s)
  | .sWriteTo handle regAddr out => some (sWriteToOp handle regAddr out s)
  | .sRead handle n => some (sReadOp handle n s)
  | .sWrite handle out => some (sWriteOp handle out s)
  | .sExchange handle out n => some (sExchangeOp handle out n s)
  | .sPoll handle => some (sPollOp handle s)
  | .sFlush handle => some (sFlushOp handle s)
  | .idle .. | .dataLow .. | .clkDataLow .. | .clkLowDataHigh .. | .writeByte .. | .readBit | .flush
  | .readByte | .ack | .nack | .start | .stop | .wu .. | .ruAck | .ruNack | .prologCmd .. | .chunkMid ..
  | .chunkLast .. => none

end Sys2Proof.Machine
end

