-- ==== Sys2Proof/Safety.lean ====
section
/-! DEFINITION. The terms claims are stated in: the invariant of the machine, the idle bus, the phase relation,
and the call traces of 42_operations.md R197. -/

namespace Sys2Proof

/-- The bus operations and the handle operations that forward to them. -/
def Instr.isBusOp : Instr → Bool
  | .read .. | .write .. | .exchange .. | .poll .. | .sReadFrom .. | .sWriteTo .. | .sRead .. | .sWrite ..
  | .sExchange .. | .sPoll .. => true
  | _ => false

end Sys2Proof

namespace Sys2Proof.Machine

/-! ### The invariant -/

/-- `PHASE = IDLE` exactly when no host operation is in progress (10_state.md R26); between steps one is in
progress only when a call has not returned. `ATTEMPT` stays within its bound (R27). -/
abbrev State.SequencerOk (s : State) : Prop :=
  (s.pending = none → s.phase = .idle) ∧ s.attempt ≤ Config.attemptsMax

/-- A handle is well formed under its key (10_state.md R31, 44_slave_handle.md R242). -/
abbrev Handle.Ok (key : Nat) (h : Handle) : Prop :=
  h.base = key ∧ h.ea ≤ Config.addrMax ∧ h.regWidth ∈ Config.regWidths

/-- `SLAVES` in canonical form, every handle well formed (R30). -/
abbrev State.SlavesOk (s : State) : Prop := mapWf s.slaves ∧ ∀ e ∈ s.slaves, e.2.Ok e.1

/-- While configured, BusConfig, the templates and `CHUNK_SIZE` are what one `configure` wrote (R21 to R25). -/
abbrev State.ConfigOk (s : State) : Prop :=
  s.configured = true →
    s.bus.pins = s.par.pins ∧ s.tpl = buildTemplates s.par ∧
      s.chunkSize = chunkSizeOf (buildTemplates s.par) s.bus.txCap s.bus.rxCap

/-- `CHUNK_CACHE` holds at most one buffer, that of the current chunk size and templates (R32,
41_phases.md R166). -/
abbrev State.CacheOk (s : State) : Prop :=
  s.chunkCache = [] ∨
    s.chunkCache = [(s.chunkSize.toNat, rep s.chunkSize.toNat s.tpl.ruAck)]

/-- The invariant that every step keeps; the parameters are ones a model may be given (00_scope.md R7). -/
abbrev State.Inv (s : State) : Prop := s.par.Ok ∧ s.SequencerOk ∧ s.SlavesOk ∧ s.ConfigOk ∧ s.CacheOk

/-- A buffer is a concatenation of the ten command units (30_encoding.md R94, R99). -/
abbrev UnitBuffer (P : Params) (v : Bytes) : Prop := v = unitsBytes P (unitsOf P v) ∧ v ≠ []

/-- Every buffer handed to the Command Engine so far is a non-empty sequence of units (R61, R274). -/
abbrev State.SendsUnits (s : State) : Prop :=
  ∀ r ∈ s.calls, match r.call with
    | .sendCommands v => UnitBuffer s.par v
    | _ => True

/-- A configured engine that waits for the host, in a state that a run can reach. -/
abbrev State.Ready (s : State) : Prop := s.free ∧ s.configured = true ∧ s.Inv

/-- The bus is idle: both lines high (10_state.md R34), as the reference Command Engine set them
(notes/assumptions/13.md, 37.md). -/
abbrev State.BusIdle (s : State) : Prop := s.ce.scl = true ∧ s.ce.sda = true

/-! ### What a result and a step can be asked -/

/-- The status code of a result (30_encoding.md R103). -/
def Result.status : Result → Nat
  | .ok _ => 0
  | .err .configurationError => 1
  | .err .transportError => 2
  | .err .negativeAcknowledgement => 3
  | .err .payloadTooLarge => 4

/-- Instructions one after another. -/
def execAll : List Instr → State → Host.Outcome State Fault Refusal
  | [], s => .next s
  | i :: rest, s =>
    match exec i s with
    | .next t => execAll rest t
    | .fault r => .fault r
    | .refused r => .refused r

/-- The transitions of `PHASE` (41_phases.md R160). -/
def phaseMoves : List (Phase × Phase) :=
  [(.idle, .prolog), (.prolog, .payload), (.prolog, .epilog), (.payload, .prolog), (.payload, .epilog),
    (.epilog, .prolog), (.epilog, .idle)]

/-- Two calls one after the other: in the same phase, or across a transition of R160. -/
abbrev phaseFollows (p q : Phase) : Prop := p = q ∨ (p, q) ∈ phaseMoves

/-! ### Call traces (42_operations.md R197) -/

/-- One successful round trip. -/
def roundTripCalls (p : Phase) (attempt : Nat) (buffer : Bytes) (n budget : Nat) (r : Bytes) : List CallRecord :=
  [⟨.sendCommands buffer, p, attempt, .ok⟩, ⟨.receiveBytes n budget, p, attempt, .bytes r⟩]

/-- A prolog answered by `r`. -/
def prologCalls (P : Params) (t : Templates) (attempt : Nat) (ab : Byte) (r : Bytes) : List CallRecord :=
  roundTripCalls .prolog attempt (t.prologCmd ab) 1 P.rxBudget r

/-- An epilog answered by `r`. -/
def epilogCalls (P : Params) (t : Templates) (attempt : Nat) (r : Bytes) : List CallRecord :=
  roundTripCalls .epilog attempt t.stop 1 P.rxBudgetEpilog r

/-- One write unit for each payload byte, answered in order by one reply byte each. -/
def writeCalls (P : Params) (t : Templates) (attempt : Nat) : Bytes → Bytes → List CallRecord
  | b :: out, a :: acks =>
    roundTripCalls .payload attempt (t.wu b) 1 P.rxBudget [a] ++ writeCalls P t attempt out acks
  | _, _ => []

/-- The number of chunks of a read of `n` bytes (R165). -/
def chunkCount (c n : Nat) : Nat := (n + c - 1) / c

/-- The sizes of the chunks of a read of `n` bytes in chunks of `c` (R165). -/
def chunkSizes (c n : Nat) : List Nat :=
  List.replicate (chunkCount c n - 1) c ++ [n - (chunkCount c n - 1) * c]

/-- The calls of a chunked read answered by `chunks` (R164): every chunk but the last is `CHUNK_MID`. -/
def readCalls (P : Params) (t : Templates) (attempt : Nat) : List Bytes → List CallRecord
  | [] => []
  | [r] => roundTripCalls .payload attempt (t.chunkLast r.length) r.length P.rxBudget r
  | r :: rest =>
    roundTripCalls .payload attempt (t.chunkMid r.length) r.length P.rxBudget r ++ readCalls P t attempt rest

/-- Replies that acknowledge: bit 0 clear (30_encoding.md R101). -/
abbrev AllAck (acks : Bytes) : Prop := ∀ a ∈ acks, ackBitOf a = false

/-- An attempt refused at its first prolog: two round trips (R197). -/
def refusedCalls (P : Params) (t : Templates) (attempt : Nat) (ab p : Byte) (e : Bytes) : List CallRecord :=
  prologCalls P t attempt ab [p] ++ epilogCalls P t attempt (e.take 1)

/-- An attempt whose first send fails: the epilog follows (R169). -/
def failedSendCalls (P : Params) (t : Templates) (attempt : Nat) (ab : Byte) (e : Bytes) : List CallRecord :=
  ⟨.sendCommands (t.prologCmd ab), .prolog, attempt, .failed⟩ :: epilogCalls P t attempt (e.take 1)

/-- An attempt whose first prolog gets no reply byte: the epilog follows (R161, R169). -/
def silentCalls (P : Params) (t : Templates) (attempt : Nat) (ab : Byte) (e : Bytes) : List CallRecord :=
  prologCalls P t attempt ab [] ++ epilogCalls P t attempt (e.take 1)

/-- The environment answers the next sends with `sends` and the next receives with `receives`. -/
abbrev State.Answers (s : State) (sends : List Bool) (receives : List Bytes) : Prop :=
  sends <+: s.env.sends ∧ receives <+: s.env.receives

/-- `t` is `s` after its environment gave these answers. -/
abbrev AnswersUsed (sends : List Bool) (receives : List Bytes) (s t : State) : Prop :=
  s.env = { t.env with sends := sends ++ t.env.sends, receives := receives ++ t.env.receives }

/-- The registers no bus operation writes (60_exceptions.md R267, 10_state.md R23, R30), and the parameters. -/
abbrev SameConfiguration (s t : State) : Prop :=
  t.configured = s.configured ∧ t.bus = s.bus ∧ t.tpl = s.tpl ∧ t.chunkSize = s.chunkSize ∧
    t.slaves = s.slaves ∧ t.requests = s.requests ∧ t.freeDraws = s.freeDraws ∧ t.par = s.par

/-! ### What an operation comes to -/

/-- A bus operation came back: one result, these calls, the last attempt's number, `PHASE = IDLE`
(42_operations.md R195). -/
abbrev OpDone (s t : State) (r : Result) (attempt : Nat) (l : List CallRecord) : Prop :=
  t.responses = s.responses ++ [r] ∧ t.calls = s.calls ++ l ∧ t.phase = .idle ∧ t.pending = none ∧
    t.attempt = attempt ∧ SameConfiguration s t

/-- Every byte was acknowledged and the epilog delivered: the flag is clear, the bus idle, and, where the epilog
got its reply byte `e`, every reply byte produced was consumed (20_memory.md R70). -/
abbrev CleanEnd (s t : State) (e : Bytes) : Prop :=
  t.ackBit = false ∧ t.BusIdle ∧ (e ≠ [] → t.ce.outstanding = s.ce.outstanding)

/-- A call that failed as a transport does: a failed send, or outside the epilog a receive that came back short
(60_exceptions.md R262). -/
abbrev CallRecord.transportFailure (r : CallRecord) : Prop :=
  match r.call, r.answer with
  | .sendCommands _, .failed => True
  | .receiveBytes n _, .bytes d => r.phase ≠ .epilog ∧ d.length < n
  | _, _ => False

/-- The send of a `STOP` by an epilog. -/
abbrev CallRecord.stopSent (t : Templates) (r : CallRecord) : Prop :=
  r.phase = .epilog ∧ r.call = .sendCommands t.stop

/-- Two calls that are the round trip of a refused byte: a prolog or a write unit was sent, and bit 0 of its one reply
byte is set (41_phases.md R161, R163). -/
abbrev RefusedByte (P : Params) (t : Templates) (r q : CallRecord) : Prop :=
  ∃ x b, ackBitOf b = true ∧ r.answer = .ok ∧
    ((r.phase = .prolog ∧ r.call = .sendCommands (t.prologCmd x)) ∨
      (r.phase = .payload ∧ r.call = .sendCommands (t.wu x))) ∧
    q = ⟨.receiveBytes 1 P.rxBudget, r.phase, r.attempt, .bytes [b]⟩

/-- Attempt `k` ended its body with a refused address or payload byte: its calls before the epilog end with that
byte's round trip. -/
abbrev attemptRefused (P : Params) (t : Templates) (l : List CallRecord) (k : Nat) : Prop :=
  ∃ m r q, l.filter (fun c => c.attempt = k ∧ c.phase ≠ .epilog) = m ++ [r, q] ∧ RefusedByte P t r q

/-! The environment of a successful single attempt (42_operations.md R197), `p` and `q` the replies of the
prologs, `acks` those of the written bytes, `chunks` the data, `e` the epilog's reply. -/

/-- A write of `out` is acknowledged throughout. -/
abbrev WriteScript (s : State) (a : Nat) (out : Bytes) (p : Byte) (acks e : Bytes) : Prop :=
  s.Ready ∧ a ≤ Config.addrMax ∧ out ≠ [] ∧ acks.length = out.length ∧ AllAck (p :: acks) ∧
    s.Answers (List.replicate (out.length + 2) true) ([p] :: acks.map (fun b => [b]) ++ [e])

/-- A read of `n` bytes is acknowledged and answered in full. -/
abbrev ReadScript (s : State) (a n : Nat) (p : Byte) (chunks : List Bytes) (e : Bytes) : Prop :=
  s.Ready ∧ a ≤ Config.addrMax ∧ 1 ≤ n ∧ 1 ≤ s.chunkSize ∧
    chunks.map List.length = chunkSizes s.chunkSize.toNat n ∧ AllAck [p] ∧
    s.Answers (List.replicate (chunks.length + 2) true) ([p] :: chunks ++ [e])

/-- An exchange is acknowledged throughout and answered in full. -/
abbrev ExchangeScript (s : State) (a : Nat) (out : Bytes) (n : Nat) (p : Byte) (acks : Bytes) (q : Byte)
    (chunks : List Bytes) (e : Bytes) : Prop :=
  s.Ready ∧ a ≤ Config.addrMax ∧ out ≠ [] ∧ 1 ≤ n ∧ n ≤ Config.maxXchgRlen ∧ 1 ≤ s.chunkSize ∧
    acks.length = out.length ∧ chunks.map List.length = chunkSizes s.chunkSize.toNat n ∧
    AllAck (p :: q :: acks) ∧
    s.Answers (List.replicate (out.length + chunks.length + 3) true)
      ([p] :: acks.map (fun b => [b]) ++ [q] :: chunks ++ [e])

/-- `t` is where a successful write leads. -/
abbrev WriteDone (s t : State) (a : Nat) (out : Bytes) (p : Byte) (acks e : Bytes) : Prop :=
  OpDone s t (.ok .none) 1
      (prologCalls s.par s.tpl 1 (addressByte a false) [p] ++ writeCalls s.par s.tpl 1 out acks ++
        epilogCalls s.par s.tpl 1 (e.take 1)) ∧
    CleanEnd s t e ∧
    t.txn = { s.txn with op := .write, abW := addressByte a false, out := out } ∧ t.chunkCache = s.chunkCache ∧
    AnswersUsed (List.replicate (out.length + 2) true) ([p] :: acks.map (fun b => [b]) ++ [e]) s t

/-- `CHUNK_CACHE` after a read of `n` bytes (41_phases.md R166). -/
def cacheAfter (s : State) (n : Nat) : List (Nat × Bytes) :=
  if (n : Int) > s.chunkSize then [(s.chunkSize.toNat, rep s.chunkSize.toNat s.tpl.ruAck)] else s.chunkCache

/-- `t` is where a successful read leads. -/
abbrev ReadDone (s t : State) (a n : Nat) (p : Byte) (chunks : List Bytes) (e : Bytes) : Prop :=
  OpDone s t (.ok (.bytes chunks.flatten)) 1
      (prologCalls s.par s.tpl 1 (addressByte a true) [p] ++ readCalls s.par s.tpl 1 chunks ++
        epilogCalls s.par s.tpl 1 (e.take 1)) ∧
    CleanEnd s t e ∧
    t.txn = { s.txn with op := .read, abR := addressByte a true, rlen := n, rem := 0, rbuf := chunks.flatten } ∧
    t.chunkCache = cacheAfter s n ∧
    AnswersUsed (List.replicate (chunks.length + 2) true) ([p] :: chunks ++ [e]) s t

/-- `t` is where a successful exchange leads. -/
abbrev ExchangeDone (s t : State) (a : Nat) (out : Bytes) (n : Nat) (p : Byte) (acks : Bytes) (q : Byte)
    (chunks : List Bytes) (e : Bytes) : Prop :=
  OpDone s t (.ok (.bytes chunks.flatten)) 1
      (prologCalls s.par s.tpl 1 (addressByte a false) [p] ++ writeCalls s.par s.tpl 1 out acks ++
        prologCalls s.par s.tpl 1 (addressByte a true) [q] ++ readCalls s.par s.tpl 1 chunks ++
        epilogCalls s.par s.tpl 1 (e.take 1)) ∧
    CleanEnd s t e ∧
    t.txn = ⟨.exchange, addressByte a false, addressByte a true, out, n, 0, chunks.flatten⟩ ∧
    t.chunkCache = cacheAfter s n ∧
    AnswersUsed (List.replicate (out.length + chunks.length + 3) true)
      ([p] :: acks.map (fun b => [b]) ++ [q] :: chunks ++ [e]) s t

/-- `t` is where a poll answered by `p` leads. That the bus is idle, also where the slave is present, is the model's
choice (notes/assumptions/37.md). -/
abbrev PollDone (s t : State) (a : Nat) (p : Byte) (e : Bytes) : Prop :=
  OpDone s t (.ok (.bool (!ackBitOf p))) 1 (refusedCalls s.par s.tpl 1 (addressByte a s.par.pollRw) p e) ∧
    t.ackBit = ackBitOf p ∧ t.BusIdle ∧ (e ≠ [] → t.ce.outstanding = s.ce.outstanding) ∧
    t.txn = { pollTxn s.par.pollRw a s.txn with rbuf := if ackBitOf p then [] else s.txn.rbuf } ∧
    t.chunkCache = s.chunkCache ∧ AnswersUsed [true, true] [[p], e] s t

end Sys2Proof.Machine
end

