-- ==== Sys2Proof/Certificates/Slice0/Obligations.lean ====
section
/-! DEFINITION. The statements for the provers, from the numbered rules of spec/. A free value (Config's opaque
constants) is only ever spoken of as "some value". The parameters of 00_scope.md R7 are those of the state, whatever
they are; `s.par.Ok` says they are ones the spec allows. Where a statement speaks of the bytes of the opcode table, it
is at the spec's defaults (notes/assumptions/10.md). -/

open Sys2Proof Sys2Proof.Machine

/-! ### Reset, steps, decoding -/

/-- What reset leaves, where the spec gives a value (10_state.md R36, 70_reset_and_hazards.md R300), and that it
calls nothing. The values are the spec's decision (92_eei_decisions.md D22). -/
def Obligations.ResetRegisters : Prop :=
  State.reset.configured = false ∧ State.reset.phase = .idle ∧ State.reset.attempt = 0 ∧
    State.reset.bus.freq = 0 ∧ State.reset.slaves = [] ∧ State.reset.chunkCache = [] ∧ State.reset.calls = []

/-- The invariant holds at reset; the parameters are the spec's defaults (notes/assumptions/10.md), which are ones R7,
R22 and R96 allow. -/
def Obligations.ResetMeetsInvariant : Prop :=
  State.reset.Inv ∧ State.reset.SendsUnits ∧ State.reset.par = Config.params

/-- Every step keeps the invariant: the sequencer at rest between operations, `SLAVES` canonical with
well-formed handles (every effective address at most 0x7F, R242), the templates and `CHUNK_SIZE` those of the
last `configure` (R23, R24, R25), the cache at most one buffer of the current templates (R32, R166), the parameters
ones the spec allows (R7). -/
def Obligations.EveryStepKeepsTheInvariant : Prop :=
  ∀ s t : State, s.Inv → step s = .next t → t.Inv

/-- Every buffer ever handed to the Command Engine is a non-empty sequence of the ten command units
(R94, R99, R274), and every step keeps this. -/
def Obligations.EveryBufferSentIsUnits : Prop :=
  ∀ s t : State, s.Inv → s.SendsUnits → step s = .next t → t.SendsUnits

/-- A step runs the host's next request: the decoded instruction, with the request taken. A stuck engine has
no step (R78); with no request nothing happens (R265); a request that holds no instruction is refused (R99 f).
The request list and the form of a stuck engine are the model's (notes/assumptions/5.md, 8.md, 25.md). -/
def Obligations.StepRunsTheDecodedInstruction : Prop :=
  ∀ (s : State) (request : Bytes) (rest : List Bytes),
    (∀ c, s.pending = some c → step s = .fault .callNeverReturned) ∧
    (s.pending = none → s.requests = [] → step s = .next s) ∧
    (s.pending = none → s.requests = request :: rest →
      (∀ i, decode request = some i → step s = exec i { s with requests := rest }) ∧
      (decode request = none → step s = .refused .illegalRequest))

/-- A word of the opcode table placed by `withFetchWord` is what the next step runs (the model's way in,
notes/assumptions/8.md). -/
def Obligations.FetchWordIsRunNext : Prop :=
  ∀ (s : State) (nbits w : Nat) (i : Instr), decodeTableWord nbits w = some i →
    step (s.withFetchWord nbits w) = exec i { s with pending := none }

/-- Words written out from the encodings of R91, R92, R96, R97 decode to their instructions; an unused selector
and an unknown first byte do not decode (R99). The bytes of arguments are the model's layout
(notes/assumptions/6.md). -/
def Obligations.WordsDecodeToTheirInstructions : Prop :=
  decodeTableWord 8 0x01 = some .terminate ∧
  decode [0x03, 0x50, 0x02] = some (.read 0x50 2) ∧
  decode [0x04, 0x50, 0x02, 0x10, 0xAB] = some (.write 0x50 [0x10, 0xAB]) ∧
  decode [0x47, 0x50] = some (.sPoll 0x50) ∧
  decodeTableWord 24 0x80FF03 = some (.idle 0xFF 0x03) ∧
  decodeTableWord 24 0x80FD03 = some (.dataLow 0xFD 0x03) ∧
  decodeTableWord 24 0x80FC03 = some (.clkDataLow 0xFC 0x03) ∧
  decodeTableWord 24 0x80FE03 = some (.clkLowDataHigh 0xFE 0x03) ∧
  decodeTableWord 32 0x110000A0 = some (.writeByte 0xA0) ∧
  decodeTableWord 24 0x1300FF = some .nack ∧
  decode [0x11, 0x00, 0x00, 0x04, 0x22, 0x00, 0x87] = some (.wu 0x04) ∧
  decode [0x20, 0x00, 0x00, 0x13, 0x00, 0xFF, 0x80, 0xFE, 0x03] = some .ruNack ∧
  decode [0x0A] = none ∧ decode [0x49, 0x50] = none ∧ decode [0x12] = none

/-- Decoding the encoding of a well-formed instruction gives it back, every operand at every value, at the default
parameters. The bytes of `HOST` and `SLAVE` requests are the model's own layout over the selectors of R91 and R92
(notes/assumptions/6.md). The one exception is the model's choice too (notes/assumptions/7.md): `CHUNK_MID(1)` and
`RU_ACK` have the same bytes, which are read as `RU_ACK`. -/
def Obligations.DecodeInvertsEncode : Prop :=
  (∀ i : Instr, i.wellFormed = true → i ≠ .chunkMid 1 → decode (encode i) = some i) ∧
    decode (encode (.chunkMid 1)) = some .ruAck

/-- The other direction for the bytes the spec lays out: a request that decodes to a unit or a template is that
instruction's encoding (R94: every unit is self-delimiting), at the default parameters. That zero bytes may stand
behind it is the model's choice (notes/assumptions/6.md: padding), and so is that the bytes `CHUNK_MID(1)` and `RU_ACK`
share are read as `RU_ACK` (notes/assumptions/7.md). -/
def Obligations.CommandBytesHaveOneMeaning : Prop :=
  ∀ (bs : Bytes) (i : Instr), i.format = .command → decode bs = some i →
    ∃ k, bs = encode i ++ List.replicate k 0

/-- The engine executes a host operation as a sequence of steps, one Command Engine call each (R6, R11): `n` steps lead
from its start to its end, each adds exactly the record of its call, made in the state the engine then stood in, and
`exec` is what they come to: the result delivered at `PHASE = IDLE`, or the engine stuck in a call that does not return
(R78). An operation the spec refuses starts none. That one step of the host interface is a whole operation is the
model's form (notes/assumptions/1.md), and so is that of a stuck engine (notes/assumptions/5.md). -/
def Obligations.OperationsRunOneCallAtATime : Prop :=
  ∀ (i : Instr) (s : State),
    (operationOf i s = none ↔ i.format = .command) ∧
    (∀ r, operationOf i s = some (.refused r) → exec i s = .refused r) ∧
    (∀ p, operationOf i s = some (.running p) →
      p.state.calls = s.calls ∧
      ∃ n q, p.engineSteps n = some q ∧ q.engineStep = none ∧ q.state.calls.length = s.calls.length + n ∧
        (∀ m x y, m < n → p.engineSteps m = some x → x.engineStep = some y →
          ∃ c a, a ≠ .never ∧ y.state.calls = x.state.calls ++ [⟨c, x.state.phase, x.state.attempt, a⟩]) ∧
        ((∃ res t, q = .done res t ∧
            exec i s = .next { t with phase := .idle, responses := t.responses ++ [res] }) ∨
          (∃ c t k, q = .call c t k ∧ exec i s = .next (hang c t))))

/-! ### Command units and templates -/

/-- Units and templates act on the Command Engine alone: every register of the block, every call, request and
response stays as it was (R147). -/
def Obligations.CommandsActOnTheCommandEngineAlone : Prop :=
  ∀ (i : Instr) (s : State), i.format = .command → ∃ c, exec i s = .next (s.setCe c)

/-- The four pin sets, with the pin values of R95, put their levels on the lines, absolutely (R131 to R134): whatever
they were, and with no reply; at the default pins so does every pin-set unit that is named by its levels. That a pin
the direction byte does not drive is high is the model's choice (notes/assumptions/15.md). -/
def Obligations.PinSetsDriveTheLines : Prop :=
  ∀ s : State,
    let p := s.par.pins
    let after (v d : Byte) (scl sda : Bool) : Host.Outcome State Fault Refusal :=
      .next { s with ce := { s.ce with
        scl := scl, sda := sda, pinValue := v, pinDir := d, wire := s.ce.wire ++ [.pins scl sda] } }
    (p.Ok →
      exec (.idle p.idleLevel p.direction) s = after p.idleLevel p.direction true true ∧
      exec (.dataLow (p.idleLevel &&& ~~~p.sdaOMask) p.direction) s =
        after (p.idleLevel &&& ~~~p.sdaOMask) p.direction true false ∧
      exec (.clkDataLow (p.idleLevel &&& ~~~(p.sdaOMask ||| p.sclMask)) p.direction) s =
        after (p.idleLevel &&& ~~~(p.sdaOMask ||| p.sclMask)) p.direction false false ∧
      exec (.clkLowDataHigh (p.idleLevel &&& ~~~p.sclMask) p.direction) s =
        after (p.idleLevel &&& ~~~p.sclMask) p.direction false true) ∧
    (p = Config.pins → ∀ v d : Byte,
      ((Instr.idle v d).wellFormed = true → exec (.idle v d) s = after v d true true) ∧
      ((Instr.dataLow v d).wellFormed = true → exec (.dataLow v d) s = after v d true false) ∧
      ((Instr.clkDataLow v d).wellFormed = true → exec (.clkDataLow v d) s = after v d false false) ∧
      ((Instr.clkLowDataHigh v d).wellFormed = true → exec (.clkLowDataHigh v d) s = after v d false true))

/-- R63: a byte is shifted most significant bit first in both directions. `WRITE_BYTE(b)` clocks bit 7 of `b`
first and bit 0 last; the reply byte of `READ_BYTE` holds the first bit received in bit 7. -/
def Obligations.BytesShiftMostSignificantBitFirst : Prop :=
  ∀ s : State,
    (∀ b, ∃ c, exec (.writeByte b) s = .next (s.setCe c) ∧
      c.wire = s.ce.wire ++ (List.range 8).map (fun i => .masterBit (b.getLsbD (7 - i))) ∧
      c.scl = false ∧ c.held = s.ce.held ∧ c.ready = s.ce.ready) ∧
    (∃ c reply, exec .readByte s = .next (s.setCe c) ∧
      c.wire = s.ce.wire ++ (List.range 8).map (fun i => .slaveBit (reply.getLsbD (7 - i))) ∧
      c.held = s.ce.held ++ [reply] ∧ c.ready = s.ce.ready)

/-- One clock pulse each: `READ_BIT` samples the released data line into bit 0 of one reply byte (R138); `ACK`
holds the line low and `NACK` high, without reply (R142, R143). -/
def Obligations.BitUnitsClockOneBit : Prop :=
  ∀ s : State,
    (∃ c reply, exec .readBit s = .next (s.setCe c) ∧
      c.wire = s.ce.wire ++ [.slaveBit (reply.getLsbD 0)] ∧ c.held = s.ce.held ++ [reply] ∧
      c.ready = s.ce.ready) ∧
    (∃ c, exec .ack s = .next (s.setCe c) ∧ c.wire = s.ce.wire ++ [.masterBit false] ∧
      c.held = s.ce.held ∧ c.ready = s.ce.ready) ∧
    (∃ c, exec .nack s = .next (s.setCe c) ∧ c.wire = s.ce.wire ++ [.masterBit true] ∧
      c.held = s.ce.held ∧ c.ready = s.ce.ready)

/-- `FLUSH` puts nothing on the lines and releases the reply bytes produced so far (R139, R74). The two parts
of the reply buffer are the model's (notes/assumptions/17.md). -/
def Obligations.FlushReleasesTheReplies : Prop :=
  ∀ s : State,
    exec .flush s = .next { s with ce := { s.ce with ready := s.ce.ready ++ s.ce.held, held := [] } }

/-- A template does what its expansion of R97 does, one instruction after another, at any pins and any
`N_STOP_IDLE`. `STOP` also has its one reply byte (R70), which the model adds after the whole sequence
(notes/assumptions/16.md). -/
def Obligations.TemplatesAreTheirExpansions : Prop :=
  ∀ s : State,
    let p := s.par.pins
    let idle : Instr := .idle p.idleLevel p.direction
    let dataLow : Instr := .dataLow (p.idleLevel &&& ~~~p.sdaOMask) p.direction
    let clkDataLow : Instr := .clkDataLow (p.idleLevel &&& ~~~(p.sdaOMask ||| p.sclMask)) p.direction
    let clkLowDataHigh : Instr := .clkLowDataHigh (p.idleLevel &&& ~~~p.sclMask) p.direction
    exec .start s = execAll (List.replicate 4 dataLow ++ List.replicate 4 clkDataLow) s ∧
    (∃ t reply n,
      execAll (List.replicate 4 clkDataLow ++ List.replicate 4 dataLow ++ List.replicate s.par.nStopIdle idle) s =
        .next t ∧
      exec .stop s = .next { t with ce := { t.ce with held := t.ce.held ++ [reply], draws := n } }) ∧
    (∀ b, exec (.wu b) s = execAll [.writeByte b, .readBit, .flush] s) ∧
    exec .ruAck s = execAll [.readByte, .ack, clkLowDataHigh] s ∧
    exec .ruNack s = execAll [.readByte, .nack, clkLowDataHigh] s ∧
    (∀ a r, exec (.prologCmd a r) s = execAll [idle, .start, .wu (addressByte a.toNat r)] s) ∧
    (∀ n, exec (.chunkMid n) s = execAll (List.replicate n .ruAck) s) ∧
    (∀ n, 1 ≤ n → exec (.chunkLast n) s = execAll (List.replicate (n - 1) .ruAck ++ [.ruNack, .flush]) s)

/-- `START` ends with both lines low (R135); `STOP` leaves the bus idle whatever it was before (R136) and
produces one reply byte (R70), at its end (the model's, notes/assumptions/16.md). -/
def Obligations.StartAndStopMoveTheLines : Prop :=
  ∀ s : State, s.par.Ok →
    (∃ c, exec .start s = .next (s.setCe c) ∧ c.scl = false ∧ c.sda = false ∧
      c.wire = s.ce.wire ++ List.replicate 4 (.pins true false) ++ List.replicate 4 (.pins false false) ∧
      c.held = s.ce.held ∧ c.ready = s.ce.ready) ∧
    (∃ c reply, exec .stop s = .next (s.setCe c) ∧ c.scl = true ∧ c.sda = true ∧
      c.wire = s.ce.wire ++ List.replicate 4 (.pins false false) ++ List.replicate 4 (.pins true false) ++
        List.replicate s.par.nStopIdle (.pins true true) ∧
      c.held = s.ce.held ++ [reply] ∧ c.ready = s.ce.ready)

/-- `WU(b)`: a byte to the slave and its acknowledge slot, one released reply byte whose bit 0 is the sample
(R140; release is the model's, notes/assumptions/17.md). `PROLOG_CMD(a, r)`: idle, start, then the address byte,
the seven address bits first and the direction bit last (R93, R97). -/
def Obligations.WriteUnitAndPrologOnTheBus : Prop :=
  ∀ s : State,
    (∀ b, ∃ c reply, exec (.wu b) s = .next (s.setCe c) ∧
      c.wire = s.ce.wire ++ (List.range 8).map (fun i => .masterBit (b.getLsbD (7 - i))) ++
        [.slaveBit (reply.getLsbD 0)] ∧
      c.ready = s.ce.ready ++ s.ce.held ++ [reply] ∧ c.held = []) ∧
    (∀ (a : BitVec 7) (r : Bool), s.par.Ok → ∃ c reply, exec (.prologCmd a r) s = .next (s.setCe c) ∧
      c.wire = s.ce.wire ++ [.pins true true] ++ List.replicate 4 (.pins true false) ++
        List.replicate 4 (.pins false false) ++
        (List.range 7).map (fun i => .masterBit (a.getLsbD (6 - i))) ++ [.masterBit r] ++
        [.slaveBit (reply.getLsbD 0)] ∧
      c.ready = s.ce.ready ++ s.ce.held ++ [reply] ∧ c.held = [])

/-- The read units (R144): a byte from the slave, most significant bit first, then the master's acknowledge bit,
ending with the clock low and the data line released. -/
def Obligations.ReadUnitsOnTheBus : Prop :=
  ∀ s : State, ∀ nack : Bool, s.par.Ok →
    ∃ c reply, exec (if nack then .ruNack else .ruAck) s = .next (s.setCe c) ∧
      c.wire = s.ce.wire ++ (List.range 8).map (fun i => .slaveBit (reply.getLsbD (7 - i))) ++
        [.masterBit nack, .pins false true] ∧
      c.scl = false ∧ c.sda = true ∧ c.held = s.ce.held ++ [reply] ∧ c.ready = s.ce.ready

/-- The chunks (R146), unit after unit: each of the `s` units samples the eight bits of its reply byte, most
significant first, then clocks the master's acknowledge bit and lowers the clock. Every byte of `CHUNK_MID` is
acknowledged; in `CHUNK_LAST` every byte but the last is, the last gets the one nack, and its `FLUSH` releases the
replies (notes/assumptions/17.md). -/
def Obligations.ChunksReadUnitAfterUnit : Prop :=
  ∀ (s : State) (n : Nat), s.par.Ok →
    let unit (nack : Bool) (reply : Byte) : List WireEvent :=
      (List.range 8).map (fun i => .slaveBit (reply.getLsbD (7 - i))) ++ [.masterBit nack, .pins false true]
    (∃ c replies, exec (.chunkMid n) s = .next (s.setCe c) ∧ replies.length = n ∧
      c.wire = s.ce.wire ++ replies.flatMap (unit false) ∧
      c.held = s.ce.held ++ replies ∧ c.ready = s.ce.ready) ∧
    (1 ≤ n → ∃ c replies last, exec (.chunkLast n) s = .next (s.setCe c) ∧ replies.length = n - 1 ∧
      c.wire = s.ce.wire ++ replies.flatMap (unit false) ++ unit true last ∧
      c.ready = s.ce.ready ++ s.ce.held ++ replies ++ [last] ∧ c.held = [])

/-! ### Builder -/

/-- The builder, for any pins, any `ENC` and any `N_STOP_IDLE`: every register of the table of R24, each pin set by its
own encoding at the pin values of R95, the heads of R96 and the expansions of R97, and `CHUNK_SIZE` over the integers,
positive exactly when `RX_CAP ≥ 3` and `TX_CAP ≥ UNIT_LEN` (R145, R302). At the default `ENC` the bytes of R96 and the
lengths of R98. -/
def Obligations.BuilderFollowsThePins : Prop :=
  ∀ P : Params,
    let p := P.pins
    let t := buildTemplates P
    t.idle = pinSetBytes P.enc.idle p.idleLevel p.direction ∧
    t.dataLow = pinSetBytes P.enc.dataLow (p.idleLevel &&& ~~~p.sdaOMask) p.direction ∧
    t.clkDataLow = pinSetBytes P.enc.clkDataLow (p.idleLevel &&& ~~~(p.sdaOMask ||| p.sclMask)) p.direction ∧
    t.clkLowDataHigh = pinSetBytes P.enc.clkLowDataHigh (p.idleLevel &&& ~~~p.sclMask) p.direction ∧
    t.start = rep 4 t.dataLow ++ rep 4 t.clkDataLow ∧
    t.stop = rep 4 t.clkDataLow ++ rep 4 t.dataLow ++ rep P.nStopIdle t.idle ∧
    t.writeByte = P.enc.writeByte ∧ t.readBit = P.enc.readBit ∧ t.flush = P.enc.flush ∧
    t.readByte = P.enc.readByte ∧ t.ack = P.enc.ack ∧ t.nack = P.enc.nack ∧
    t.ruAck = t.readByte ++ t.ack ++ t.clkLowDataHigh ∧
    t.ruNack = t.readByte ++ t.nack ++ t.clkLowDataHigh ∧
    (∀ tx rx, chunkSizeOf t tx rx = min ((rx : Int) - 2) ((tx / t.ruNack.length : Nat) : Int)) ∧
    (P.EncOk → t.ruAck.length = t.ruNack.length ∧
      ∀ tx rx, 1 ≤ chunkSizeOf t tx rx ↔ 3 ≤ rx ∧ t.ruNack.length ≤ tx) ∧
    (P.enc = Config.enc →
      t.idle = [0x80, p.idleLevel, p.direction] ∧
      t.dataLow = [0x80, p.idleLevel &&& ~~~p.sdaOMask, p.direction] ∧
      t.clkDataLow = [0x80, p.idleLevel &&& ~~~(p.sdaOMask ||| p.sclMask), p.direction] ∧
      t.clkLowDataHigh = [0x80, p.idleLevel &&& ~~~p.sclMask, p.direction] ∧
      t.writeByte = [0x11, 0x00, 0x00] ∧ t.readBit = [0x22, 0x00] ∧
      t.flush = [0x87] ∧ t.readByte = [0x20, 0x00, 0x00] ∧ t.ack = [0x13, 0x00, 0x00] ∧
      t.nack = [0x13, 0x00, 0xFF] ∧
      t.start.length = 24 ∧ t.stop.length = 24 + 3 * P.nStopIdle ∧ t.ruAck.length = 9 ∧ t.ruNack.length = 9 ∧
      (∀ ab, (t.prologCmd ab).length = 34) ∧ (∀ b, (t.wu b).length = 7) ∧
      (∀ n, (t.chunkMid n).length = 9 * n) ∧ (∀ n, 1 ≤ n → (t.chunkLast n).length = 9 * n + 1))

/-! ### Management operations -/

/-- A `configure` whose `connect` succeeds and whose drive-zero answer is acceptable (R220): the four calls in
order, the scaled clock, BusConfig, templates and `CHUNK_SIZE` replaced, the cache emptied, `CONFIGURED` set;
handles and everything else stay. Calls and arguments are the spec's decision D16; that the two set-up calls
return, and set the lines, is the model's (notes/assumptions/3.md, 29.md), and so is that an open connection keeps the
reply bytes (notes/assumptions/34.md) and that the mode calls leave them and the lines (36.md). -/
def Obligations.ConfigureEstablishes : Prop :=
  ∀ (s : State) (f : Freq) (required z : Bool) (tx rx : Nat) (cs : List (Option (Nat × Nat))) (zs : List Bool),
    s.par.Ok → s.free → s.env.connects = some (tx, rx) :: cs → s.env.driveZero = z :: zs →
    (z = true ∨ required = false) →
    exec (.configure f required) s = .next { s with
      configured := true
      bus := ⟨s.par.pins, achievedClock (f * 3 / 2) s.par.ceClock, tx, rx⟩
      tpl := buildTemplates s.par
      chunkSize := chunkSizeOf (buildTemplates s.par) tx rx
      chunkCache := []
      ce := { s.ce with
        scl := true, sda := true, pinValue := s.par.pins.idleLevel, pinDir := s.par.pins.direction
        wire := s.ce.wire ++ [.pins true true] }
      env := { s.env with connects := cs, driveZero := zs }
      calls := s.calls ++
        [⟨.connect (f * 3 / 2) s.par.pins.idleLevel s.par.pins.direction, .idle, s.attempt, .connected tx rx⟩,
         ⟨.setOutputLevels s.par.pins.idleLevel s.par.pins.direction, .idle, s.attempt, .returned⟩,
         ⟨.setClockPhaseMode true, .idle, s.attempt, .returned⟩,
         ⟨.setDriveZeroMode s.par.driveZeroMask, .idle, s.attempt, if z then .ok else .unsupported⟩]
      responses := s.responses ++ [.ok (.freq (achievedClock (f * 3 / 2) s.par.ceClock))] }

/-- A `configure` that fails (R220, R261, R262): a failed `connect` is `TransportError` after one call;
drive-zero required and absent is `ConfigurationError` after `close`. Either leaves `CONFIGURED` false, even if it
was true, and no other register of the block changes; that `CHUNK_CACHE` is among those is the model's reading
(notes/assumptions/30.md). The set-up calls and `close` always returning is the model's choice (notes/assumptions/3.md),
so are the lines after the output levels (29.md), the reply bytes gone with the connection (34.md) and the lines after
the mode calls (36.md). -/
def Obligations.ConfigureFailuresUnconfigure : Prop :=
  ∀ (s : State) (f : Freq), s.free →
    (∀ required cs, s.env.connects = none :: cs →
      exec (.configure f required) s = .next { s with
        configured := false
        ce := { s.ce with held := [], ready := [] }
        env := { s.env with connects := cs }
        calls := s.calls ++
          [⟨.connect (f * 3 / 2) s.par.pins.idleLevel s.par.pins.direction, .idle, s.attempt, .failed⟩]
        responses := s.responses ++ [.err .transportError] }) ∧
    (∀ tx rx cs zs, s.par.Ok → s.env.connects = some (tx, rx) :: cs → s.env.driveZero = false :: zs →
      exec (.configure f true) s = .next { s with
        configured := false
        ce := { s.ce with
          scl := true, sda := true, pinValue := s.par.pins.idleLevel, pinDir := s.par.pins.direction
          wire := s.ce.wire ++ [.pins true true], held := [], ready := [] }
        env := { s.env with connects := cs, driveZero := zs }
        calls := s.calls ++
          [⟨.connect (f * 3 / 2) s.par.pins.idleLevel s.par.pins.direction, .idle, s.attempt, .connected tx rx⟩,
           ⟨.setOutputLevels s.par.pins.idleLevel s.par.pins.direction, .idle, s.attempt, .returned⟩,
           ⟨.setClockPhaseMode true, .idle, s.attempt, .returned⟩,
           ⟨.setDriveZeroMode s.par.driveZeroMask, .idle, s.attempt, .unsupported⟩,
           ⟨.close, .idle, s.attempt, .returned⟩]
        responses := s.responses ++ [.err .configurationError] })

/-- `terminate` (R221, R301): one `close`, `CONFIGURED` false, the cache empty, the handles and all of BusConfig
but `FREQ` kept (`FREQ` is then any value, U12); when not configured nothing happens but the answer. That it completes
rests on `close` always returning, the model's choice (notes/assumptions/3.md, unsafe); what `close` leaves of the
lines and the reply bytes is the model's choice too (notes/assumptions/34.md). -/
def Obligations.TerminateUnconfigures : Prop :=
  ∀ s : State, s.free →
    (s.configured = true → ∃ freq, exec .terminate s = .next { s with
      configured := false
      bus := { s.bus with freq := freq }
      chunkCache := []
      ce := { s.ce with held := [], ready := [] }
      calls := s.calls ++ [⟨.close, .idle, s.attempt, .returned⟩]
      responses := s.responses ++ [.ok .none]
      freeDraws := s.freeDraws + 1 }) ∧
    (s.configured = false → exec .terminate s = .next { s with responses := s.responses ++ [.ok .none] })

/-- A host that wants a clean state runs `terminate`, then `configure` (R269, R313): afterwards no reply byte is
outstanding, the bus is idle, the cache empty, the templates those of the parameters, and the handles are kept. The
spec calls this pair the way to a clean state and does not say how it comes about; that `close` discards the reply
bytes is the model's choice (notes/assumptions/34.md), and so are that the calls return (3.md), that the output levels
set the lines (29.md) and that the mode calls leave them (36.md). -/
def Obligations.TerminateThenConfigureIsClean : Prop :=
  ∀ (s : State) (f : Freq) (required z : Bool) (tx rx : Nat) (cs : List (Option (Nat × Nat))) (zs : List Bool),
    s.par.Ok → s.free → s.configured = true → s.env.connects = some (tx, rx) :: cs → s.env.driveZero = z :: zs →
    (z = true ∨ required = false) →
    ∃ t, execAll [.terminate, .configure f required] s = .next t ∧ t.configured = true ∧ t.ce.outstanding = 0 ∧
      t.BusIdle ∧ t.chunkCache = [] ∧ t.tpl = buildTemplates s.par ∧ t.slaves = s.slaves

/-- `getSlave` (R222): the address is checked first, then the mode; a new address gets a fresh handle, a known
one keeps its fields; no call is made and no other handle changes. The fresh handle's fields are the spec's decision
D20; a handle is answered by its base (notes/assumptions/33.md). -/
def Obligations.GetSlaveFindsOrCreates : Prop :=
  ∀ (s : State) (a : Nat), s.free → s.SlavesOk →
    (Config.addrMax < a ∨ s.configured = false →
      exec (.getSlave a) s = .next { s with responses := s.responses ++ [.err .configurationError] }) ∧
    (a ≤ Config.addrMax → s.configured = true →
      ∃ m, exec (.getSlave a) s = .next { s with
          slaves := m, responses := s.responses ++ [.ok (.handle a)] } ∧
        mapWf m ∧ (∀ h, mapGet a s.slaves = some h → m = s.slaves) ∧
        (mapGet a s.slaves = none → mapGet a m = some ⟨a, 0, 1, false⟩) ∧
        (∀ b, b ≠ a → mapGet b m = mapGet b s.slaves))

/-- `getSlave` is idempotent per address (R222, property S1): after a first `getSlave` and any one operation but
`terminate` and `configure`, `configureRegister` and `shiftAddress` on the handle included, a second `getSlave`
answers the same handle and changes no field of any handle. -/
def Obligations.GetSlaveIsIdempotent : Prop :=
  ∀ (s t u : State) (a : Nat) (i : Instr), s.SlavesOk → a ≤ Config.addrMax → s.configured = true →
    exec (.getSlave a) s = .next t → i ≠ .terminate → (∀ f z, i ≠ .configure f z) →
    exec i t = .next u → u.free →
    exec (.getSlave a) u = .next { u with responses := u.responses ++ [.ok (.handle a)] }

/-- `flush()` (R223): one `FLUSH` unit is sent and nothing received; a failed send is `TransportError`; not
configured is `ConfigurationError` without a call. The block's registers stay as they are. The last clause, what an
accepted `FLUSH` does to the reply buffer, is the model's choice: executed when sent (notes/assumptions/13.md), its
bytes moved between the two parts of the buffer (17.md). -/
def Obligations.FlushSendsOneUnit : Prop :=
  ∀ s : State, s.free →
    (s.configured = false →
      exec .flushOp s = .next { s with responses := s.responses ++ [.err .configurationError] }) ∧
    (∀ ok rest, s.configured = true → s.env.sends = ok :: rest →
      ∃ c, exec .flushOp s = .next { s with
        ce := c
        env := { s.env with sends := rest }
        calls := s.calls ++ [⟨.sendCommands s.tpl.flush, .idle, s.attempt, if ok then .ok else .failed⟩]
        responses := s.responses ++ [if ok then .ok .none else .err .transportError] } ∧
      (ok = true → s.par.Ok → s.ConfigOk →
        c = { s.ce with ready := s.ce.ready ++ s.ce.held, held := [] }))

/-- `frequency` answers `FREQ` and `frequencyMax` the parameter `FREQ_MAX`, in either mode, with no other effect
(R224, R225). -/
def Obligations.FrequenciesAreRead : Prop :=
  ∀ s : State, s.free →
    exec .frequency s = .next { s with responses := s.responses ++ [.ok (.freq s.bus.freq)] } ∧
    exec .frequencyMax s = .next { s with responses := s.responses ++ [.ok (.freq Config.freqMax)] }

/-! ### Slave Handle operations -/

/-- `configureRegister` (R241): a width of 1, 2 or 4 sets the register format of the handle, any other is a
configuration error and changes nothing; no bus activity, and every other handle stays. At width 1 the
endianness has no effect on the prefix. -/
def Obligations.ConfigureRegisterSetsTheFormat : Prop :=
  ∀ (s : State) (b width : Nat) (big : Bool) (h : Handle), s.free → mapGet b s.slaves = some h →
    (width = 1 ∨ width = 2 ∨ width = 4 →
      ∃ m, exec (.sConfigureRegister b big width) s = .next { s with
          slaves := m, responses := s.responses ++ [.ok .none] } ∧
        mapGet b m = some ⟨h.base, h.offset, width, big⟩ ∧ ∀ k, k ≠ b → mapGet k m = mapGet k s.slaves) ∧
    (¬(width = 1 ∨ width = 2 ∨ width = 4) →
      exec (.sConfigureRegister b big width) s =
        .next { s with responses := s.responses ++ [.err .configurationError] }) ∧
    (∀ r, regEnc ⟨h.base, h.offset, 1, true⟩ r = regEnc ⟨h.base, h.offset, 1, false⟩ r)

/-- `shiftAddress` (R242): the offset is checked against the base and replaces the previous one; beyond 0x7F is
a configuration error and changes nothing. -/
def Obligations.ShiftAddressReplacesTheOffset : Prop :=
  ∀ (s : State) (b offset : Nat) (h : Handle), s.free → mapGet b s.slaves = some h →
    (h.base + offset ≤ 0x7F →
      ∃ m, exec (.sShiftAddress b offset) s = .next { s with
          slaves := m, responses := s.responses ++ [.ok .none] } ∧
        mapGet b m = some ⟨h.base, offset, h.regWidth, h.regBig⟩ ∧
        ∀ k, k ≠ b → mapGet k m = mapGet k s.slaves) ∧
    (0x7F < h.base + offset →
      exec (.sShiftAddress b offset) s =
        .next { s with responses := s.responses ++ [.err .configurationError] })

/-- R246 to R250: the forwarding operations are the Bus Master's, with the handle's effective address and no
prefix. -/
def Obligations.HandleOperationsForward : Prop :=
  ∀ (s : State) (b : Nat) (h : Handle), mapGet b s.slaves = some h →
    (∀ n, exec (.sRead b n) s = exec (.read (h.base + h.offset) n) s) ∧
    (∀ out, exec (.sWrite b out) s = exec (.write (h.base + h.offset) out) s) ∧
    (∀ out n, exec (.sExchange b out n) s = exec (.exchange (h.base + h.offset) out n) s) ∧
    exec (.sPoll b) s = exec (.poll (h.base + h.offset)) s ∧
    exec (.sFlush b) s = exec .flushOp s

/-- R244, R245: `readFrom` is an exchange that writes the prefix alone, `writeTo` a write of the prefix and the
payload, an empty payload included. The source's example: width 2, `0x0102`, `[0xAA]`. -/
def Obligations.RegisterAccessPrependsThePrefix : Prop :=
  ∀ (s : State) (b : Nat) (h : Handle) (r : Nat) (p : Bytes), mapGet b s.slaves = some h →
    regEnc h r = some p →
    (∀ n, exec (.sReadFrom b r n) s = exec (.exchange (h.base + h.offset) p n) s) ∧
    (∀ out, exec (.sWriteTo b r out) s = exec (.write (h.base + h.offset) (p ++ out)) s) ∧
    (h.regWidth ∈ Config.regWidths → p ≠ []) ∧
    (h.regWidth = 2 → h.regBig = true → r = 0x0102 →
      exec (.sWriteTo b r [0xAA]) s = exec (.write (h.base + h.offset) [0x01, 0x02, 0xAA]) s) ∧
    (h.regWidth = 2 → h.regBig = false → r = 0x0102 →
      exec (.sWriteTo b r [0xAA]) s = exec (.write (h.base + h.offset) [0x02, 0x01, 0xAA]) s)

/-- `REGENC` (R243): the prefix has the width's bytes, byte `i` counted from the least significant end is
`(regAddr >> 8i) & 0xFF`, most significant first exactly when big-endian; so the address can be read back. -/
def Obligations.RegisterPrefixHoldsTheAddress : Prop :=
  ∀ (h : Handle) (r : Nat), r < 2 ^ (8 * h.regWidth) →
    ∃ p, regEnc h r = some p ∧ p.length = h.regWidth ∧
      (∀ i, i < h.regWidth →
        p[if h.regBig then h.regWidth - 1 - i else i]? = some (BitVec.ofNat 8 (r >>> (8 * i)))) ∧
      r = (if h.regBig then p else p.reverse).foldl (fun n b => 256 * n + b.toNat) 0

/-- What the spec refuses of handle operations: a handle `getSlave` never returned (U17), and a register address
that does not fit (U5),
before any validation (the model's, notes/assumptions/24.md). -/
def Obligations.HandleRefusals : Prop :=
  ∀ (s : State) (b : Nat), s.free →
    (mapGet b s.slaves = none → ∀ r n out width big offset,
      exec (.sConfigureRegister b big width) s = .refused .unknownHandle ∧
      exec (.sShiftAddress b offset) s = .refused .unknownHandle ∧
      exec (.sReadFrom b r n) s = .refused .unknownHandle ∧
      exec (.sWriteTo b r out) s = .refused .unknownHandle ∧
      exec (.sRead b n) s = .refused .unknownHandle ∧
      exec (.sWrite b out) s = .refused .unknownHandle ∧
      exec (.sExchange b out n) s = .refused .unknownHandle ∧
      exec (.sPoll b) s = .refused .unknownHandle ∧
      exec (.sFlush b) s = .refused .unknownHandle) ∧
    (∀ h r, mapGet b s.slaves = some h → 2 ^ (8 * h.regWidth) ≤ r → ∀ n out,
      exec (.sReadFrom b r n) s = .refused .registerAddressTooWide ∧
      exec (.sWriteTo b r out) s = .refused .registerAddressTooWide)

/-! ### Bus operations: what they answer -/

/-- Validation (R190, R266): the first failing check, in the order address, payload, length, bound, mode, is the
error; nothing is called and nothing changes but the answer. Order and `ERR_EMPTY` are the spec's decision D12. -/
def Obligations.ValidationInOrder : Prop :=
  ∀ (s : State) (a n : Nat) (out : Bytes), s.free →
    let answers (k : ErrKind) : Host.Outcome State Fault Refusal :=
      .next { s with responses := s.responses ++ [.err k] }
    (0x7F < a →
      exec (.read a n) s = answers .configurationError ∧ exec (.write a out) s = answers .configurationError ∧
      exec (.exchange a out n) s = answers .configurationError ∧ exec (.poll a) s = answers .configurationError) ∧
    (a ≤ 0x7F →
      (out = [] →
        exec (.write a out) s = answers s.par.errEmpty ∧ exec (.exchange a out n) s = answers s.par.errEmpty) ∧
      (n = 0 → exec (.read a n) s = answers s.par.errEmpty) ∧
      (out ≠ [] → n = 0 → exec (.exchange a out n) s = answers s.par.errEmpty) ∧
      (out ≠ [] → 21844 < n → exec (.exchange a out n) s = answers .payloadTooLarge) ∧
      (s.configured = false →
        (n ≠ 0 → exec (.read a n) s = answers .configurationError) ∧
        (out ≠ [] → exec (.write a out) s = answers .configurationError) ∧
        (out ≠ [] → n ≠ 0 → n ≤ 21844 → exec (.exchange a out n) s = answers .configurationError) ∧
        exec (.poll a) s = answers .configurationError))

/-- A write whose address and bytes are all acknowledged (R192, R163, R197): one round trip for the prolog, one
for each byte in order, one for the epilog; `Ok`, one attempt, the bus idle. The lines and
the reply count are the reference Command Engine's (notes/assumptions/13.md, 16.md). -/
def Obligations.WriteCompletes : Prop :=
  ∀ (s : State) (a : Nat) (out : Bytes) (p : Byte) (acks e : Bytes), WriteScript s a out p acks e →
    ∃ t, exec (.write a out) s = .next t ∧ WriteDone s t a out p acks e

/-- The same through a handle: `write` and `writeTo` (R245, R247). The lines and
the reply count are the reference Command Engine's (notes/assumptions/13.md, 16.md). -/
def Obligations.HandleWritesComplete : Prop :=
  ∀ (s : State) (b : Nat) (h : Handle) (p : Byte) (acks e : Bytes), mapGet b s.slaves = some h →
    (∀ out, WriteScript s h.ea out p acks e →
      ∃ t, exec (.sWrite b out) s = .next t ∧ WriteDone s t h.ea out p acks e) ∧
    (∀ r pre out, regEnc h r = some pre → WriteScript s h.ea (pre ++ out) p acks e →
      ∃ t, exec (.sWriteTo b r out) s = .next t ∧ WriteDone s t h.ea (pre ++ out) p acks e)

/-- A read that is acknowledged and answered in full (R191, R164, R165, R197): the chunks of the closed form, one
round trip each, every chunk but the last a `CHUNK_MID`; the data in order; and, whatever the chunk size, the
command bytes of the read part are `n − 1` ack-terminated units, one nack-terminated unit and one `FLUSH`. The lines and
the reply count are the reference Command Engine's (notes/assumptions/13.md, 16.md). -/
def Obligations.ReadCompletes : Prop :=
  ∀ (s : State) (a n : Nat) (p : Byte) (chunks : List Bytes) (e : Bytes), ReadScript s a n p chunks e →
    ∃ t, exec (.read a n) s = .next t ∧ ReadDone s t a n p chunks e ∧ chunks.flatten.length = n ∧
      t.txStream = s.txStream ++ s.tpl.prologCmd (addressByte a true) ++
        (rep (n - 1) s.tpl.ruAck ++ s.tpl.ruNack ++ s.tpl.flush) ++ s.tpl.stop

/-- An exchange that is acknowledged throughout and answered in full (R193, R168): a write part and a read part
with a second prolog between them and no stop (the spec's decision D5). The lines and
the reply count are the reference Command Engine's (notes/assumptions/13.md, 16.md). -/
def Obligations.ExchangeCompletes : Prop :=
  ∀ (s : State) (a : Nat) (out : Bytes) (n : Nat) (p : Byte) (acks : Bytes) (q : Byte) (chunks : List Bytes)
    (e : Bytes), ExchangeScript s a out n p acks q chunks e →
    ∃ t, exec (.exchange a out n) s = .next t ∧ ExchangeDone s t a out n p acks q chunks e ∧
      chunks.flatten.length = n

/-- The same through a handle: `read`, `exchange` and `readFrom` (R244, R246, R248). The lines and
the reply count are the reference Command Engine's (notes/assumptions/13.md, 16.md). -/
def Obligations.HandleReadsComplete : Prop :=
  ∀ (s : State) (b : Nat) (h : Handle) (n : Nat) (p q : Byte) (acks : Bytes) (chunks : List Bytes) (e : Bytes),
    mapGet b s.slaves = some h →
    (ReadScript s h.ea n p chunks e →
      ∃ t, exec (.sRead b n) s = .next t ∧ ReadDone s t h.ea n p chunks e) ∧
    (∀ out, ExchangeScript s h.ea out n p acks q chunks e →
      ∃ t, exec (.sExchange b out n) s = .next t ∧ ExchangeDone s t h.ea out n p acks q chunks e) ∧
    (∀ r pre, regEnc h r = some pre → ExchangeScript s h.ea pre n p acks q chunks e →
      ∃ t, exec (.sReadFrom b r n) s = .next t ∧ ExchangeDone s t h.ea pre n p acks q chunks e)

/-- A poll (R194, R170): present when bit 0 of the prolog's reply is clear, absent when it is set, in one attempt
of two round trips either way; the bus is idle afterwards. The lines are the reference Command Engine's
(notes/assumptions/13.md), and that a present slave does not hold the data line low through the stop, which R194 leaves
open, is the model's choice (37.md). -/
def Obligations.PollAnswersPresence : Prop :=
  ∀ (s : State) (a : Nat) (p : Byte) (e : Bytes), s.Ready → a ≤ Config.addrMax →
    s.Answers [true, true] [[p], e] →
    ∃ t, exec (.poll a) s = .next t ∧ PollDone s t a p e

/-- `poll` and `flush` through a handle (R249, R250). The bus idle after the poll is as in `PollAnswersPresence`
(notes/assumptions/13.md, 37.md). What `flush` does to the reply buffer is the reference Command Engine's and the
model's choice: executed when sent (13.md), its bytes moved between the two parts of the buffer (17.md). -/
def Obligations.HandlePollAndFlushComplete : Prop :=
  ∀ (s : State) (b : Nat) (h : Handle), mapGet b s.slaves = some h →
    (∀ p e, s.Ready → s.Answers [true, true] [[p], e] →
      ∃ t, exec (.sPoll b) s = .next t ∧ PollDone s t h.ea p e) ∧
    (∀ rest, s.Ready → s.env.sends = true :: rest →
      exec (.sFlush b) s = .next { s with
        ce := { s.ce with ready := s.ce.ready ++ s.ce.held, held := [] }
        env := { s.env with sends := rest }
        calls := s.calls ++ [⟨.sendCommands s.par.enc.flush, .idle, s.attempt, .ok⟩]
        responses := s.responses ++ [.ok .none] })

/-- Property S4 (R170, R197): where every prolog is refused, `read`, `write` and `exchange` make exactly three
attempts, six round trips, prologs and stops alternating, send no payload, and answer
`NegativeAcknowledgement`. The lines
are the reference Command Engine's (notes/assumptions/13.md). -/
def Obligations.AbsentSlaveIsTriedThreeTimes : Prop :=
  ∀ (s : State) (a n : Nat) (out : Bytes) (p1 p2 p3 : Byte) (e1 e2 e3 : Bytes), s.Ready →
    a ≤ Config.addrMax → out ≠ [] → 1 ≤ n →
    ackBitOf p1 = true → ackBitOf p2 = true → ackBitOf p3 = true →
    s.Answers (List.replicate 6 true) [[p1], e1, [p2], e2, [p3], e3] →
    let refused (t : State) (rw : Bool) : Prop :=
      OpDone s t (.err .negativeAcknowledgement) 3
        (refusedCalls s.par s.tpl 1 (addressByte a rw) p1 e1 ++ refusedCalls s.par s.tpl 2 (addressByte a rw) p2 e2 ++
          refusedCalls s.par s.tpl 3 (addressByte a rw) p3 e3) ∧ t.ackBit = true ∧ t.BusIdle
    (1 ≤ s.chunkSize → ∃ t, exec (.read a n) s = .next t ∧ refused t true) ∧
    (∃ t, exec (.write a out) s = .next t ∧ refused t false) ∧
    (1 ≤ s.chunkSize → n ≤ Config.maxXchgRlen → ∃ t, exec (.exchange a out n) s = .next t ∧ refused t false)

/-- A transport failure in the first prolog, a failed send or no reply byte, ends the operation with
`TransportError` in its first attempt, after the epilog (R161, R169, R262; programs P8, P13). -/
def Obligations.FirstPrologTransportFailure : Prop :=
  ∀ (s : State) (a n : Nat) (out : Bytes) (e : Bytes), s.Ready → a ≤ Config.addrMax → out ≠ [] → 1 ≤ n →
    let failed (t : State) (rw : Bool) : Prop :=
      (s.Answers [false, true] [e] →
        OpDone s t (.err .transportError) 1 (failedSendCalls s.par s.tpl 1 (addressByte a rw) e)) ∧
      (s.Answers [true, true] [[], e] →
        OpDone s t (.err .transportError) 1 (silentCalls s.par s.tpl 1 (addressByte a rw) e) ∧ t.ackBit = s.ackBit)
    (s.Answers [false, true] [e] ∨ s.Answers [true, true] [[], e] →
      (1 ≤ s.chunkSize → ∃ t, exec (.read a n) s = .next t ∧ failed t true) ∧
      (∃ t, exec (.write a out) s = .next t ∧ failed t false) ∧
      (1 ≤ s.chunkSize → n ≤ Config.maxXchgRlen → ∃ t, exec (.exchange a out n) s = .next t ∧ failed t false) ∧
      (∃ t, exec (.poll a) s = .next t ∧ failed t s.par.pollRw))

/-! ### Bus operations: whole-machine rules -/

/-- A bus operation, and a handle operation that forwards to one, changes no register but `PHASE`, `ATTEMPT`,
`ACKBIT`, `CHUNK_CACHE` and the transaction registers it uses; the call record only grows (R267, R23, R226).
`read`, `write` and `poll` leave the transaction registers they do not use alone, `write` and `poll` the cache; of the
address bytes `poll` uses the one of the direction `POLL_RW` (R28). -/
def Obligations.BusOperationFrame : Prop :=
  ∀ (i : Instr) (s t : State), i.isBusOp = true → exec i s = .next t →
    SameConfiguration s t ∧ s.calls <+: t.calls ∧ t.env.connects = s.env.connects ∧
      t.env.driveZero = s.env.driveZero ∧
      (∀ a n, i = .read a n → t.txn.abW = s.txn.abW ∧ t.txn.out = s.txn.out) ∧
      (∀ a out, i = .write a out →
        t.txn.abR = s.txn.abR ∧ t.txn.rlen = s.txn.rlen ∧ t.txn.rem = s.txn.rem ∧ t.chunkCache = s.chunkCache) ∧
      (∀ a, i = .poll a →
        (s.par.pollRw = true → t.txn.abW = s.txn.abW) ∧ (s.par.pollRw = false → t.txn.abR = s.txn.abR) ∧
        t.txn.out = s.txn.out ∧ t.txn.rlen = s.txn.rlen ∧ t.txn.rem = s.txn.rem ∧ t.chunkCache = s.chunkCache)

/-- Only `configure` writes BusConfig, a template or `CHUNK_SIZE` (but for `FREQ` at `terminate`), only
`configure` and `terminate` change the mode, only `getSlave` adds a handle, none removes one or changes a base,
and only `configureRegister` and `shiftAddress` write a handle's other fields (R23, R30, R226, R270). No instruction
writes a parameter (R37). -/
def Obligations.OnlyTheNamedOperationsConfigure : Prop :=
  ∀ (i : Instr) (s t : State), exec i s = .next t →
    t.par = s.par ∧
    ((∀ f z, i ≠ .configure f z) →
      t.bus.pins = s.bus.pins ∧ t.bus.txCap = s.bus.txCap ∧ t.bus.rxCap = s.bus.rxCap ∧ t.tpl = s.tpl ∧
        t.chunkSize = s.chunkSize ∧
        (i ≠ .terminate → t.bus.freq = s.bus.freq ∧ t.configured = s.configured) ∧
        (t.configured = true → s.configured = true)) ∧
    (∀ k h, mapGet k s.slaves = some h →
      ∃ h', mapGet k t.slaves = some h' ∧ h'.base = h.base ∧
        ((∀ big w, i ≠ .sConfigureRegister k big w) → h'.regWidth = h.regWidth ∧ h'.regBig = h.regBig) ∧
        ((∀ o, i ≠ .sShiftAddress k o) → h'.offset = h.offset)) ∧
    (∀ k, mapGet k s.slaves = none → mapGet k t.slaves ≠ none → i = .getSlave k)

/-- Every `HOST` and `SLAVE` operation that answers a next state either delivered exactly one result, at
`PHASE = IDLE`, or is stuck in a call that did not return, with no result (R195, R78). -/
def Obligations.OneResultOrStuck : Prop :=
  ∀ (i : Instr) (s t : State), i.format ≠ .command → exec i s = .next t →
    (t.pending = none ∧ t.phase = .idle ∧ ∃ r, t.responses = s.responses ++ [r]) ∨
      (t.pending ≠ none ∧ t.responses = s.responses ∧ ∃ r, t.calls.getLast? = some r ∧ r.answer = .never ∧
        t.pending = some r.call)

/-- The phases of an operation's calls follow the transitions of R160, from `IDLE` and, when the operation came
back, to `IDLE`: nothing goes from `PROLOG` or `PAYLOAD` to `IDLE` without passing `EPILOG`. -/
def Obligations.PhasesFollowTheTransitions : Prop :=
  ∀ (i : Instr) (s t : State) (l : List CallRecord), i.isBusOp = true → exec i s = .next t →
    t.calls = s.calls ++ l →
    List.IsChain phaseFollows
      (.idle :: l.map CallRecord.phase ++ (if t.pending = none then [Phase.idle] else []))

/-- Every attempt ends with exactly one `STOP`, whatever happened in it (R169, R305): an operation that came back and
touched the bus sent as many `STOP` buffers as it made attempts, one in each, and the last call of each attempt is
its epilog's. -/
def Obligations.EveryAttemptEndsWithOneStop : Prop :=
  ∀ (i : Instr) (s t : State) (l : List CallRecord), i.isBusOp = true → exec i s = .next t →
    t.calls = s.calls ++ l → t.pending = none → l ≠ [] →
    l.countP (fun r => decide (r.stopSent s.tpl)) = t.attempt ∧
      (∃ r, l.getLast? = some r ∧ r.phase = .epilog ∧ r.attempt = t.attempt) ∧
      ∀ k, 1 ≤ k → k ≤ t.attempt →
        (l.filter (fun r => r.attempt = k)).countP (fun r => decide (r.stopSent s.tpl)) = 1 ∧
        ∃ r, (l.filter (fun r => r.attempt = k)).getLast? = some r ∧ r.phase = .epilog

/-- Property S2 (R307): an operation that comes back with anything but `TransportError` leaves the bus idle,
whether or not a byte was refused. The lines are the reference Command Engine's (notes/assumptions/13.md); that a
polled slave does not hold the data line low through the stop (R194) is the model's choice (37.md). -/
def Obligations.BusIsIdleAfterAnOperation : Prop :=
  ∀ (i : Instr) (s t : State) (r : Result), s.Inv → s.configured = true → i.isBusOp = true →
    exec i s = .next t → t.calls ≠ s.calls → t.responses = s.responses ++ [r] → r ≠ .err .transportError →
    t.BusIdle

/-- The retry bound (R170, S4): a bus operation makes at most three attempts, a poll one; and it makes at most
the calls of R317. A `read` or `exchange` needs `CHUNK_SIZE ≥ 1` for its chunk count to be one (R308). -/
def Obligations.AttemptsAndCallsAreBounded : Prop :=
  ∀ (s t : State) (a n : Nat) (out : Bytes) (l : List CallRecord), t.calls = s.calls ++ l → l ≠ [] →
    let k := chunkCount s.chunkSize.toNat n
    (1 ≤ s.chunkSize → exec (.read a n) s = .next t →
      1 ≤ t.attempt ∧ t.attempt ≤ 3 ∧ l.length ≤ 3 * (2 * k + 4)) ∧
    (exec (.write a out) s = .next t → 1 ≤ t.attempt ∧ t.attempt ≤ 3 ∧ l.length ≤ 3 * (2 * out.length + 4)) ∧
    (1 ≤ s.chunkSize → exec (.exchange a out n) s = .next t →
      1 ≤ t.attempt ∧ t.attempt ≤ 3 ∧ l.length ≤ 3 * (2 * out.length + 2 * k + 6)) ∧
    (exec (.poll a) s = .next t → t.attempt = 1 ∧ l.length ≤ 4)

/-- R171: an operation is retried as a whole, on a negative acknowledgement only. Every attempt begins with the
same prolog and every one that another followed was refused; an operation in which a send failed, or a receive
outside the epilog came back short, ended with `TransportError` in the attempt in which that happened, after that attempt's epilog. -/
def Obligations.OnlyRefusalsAreRetried : Prop :=
  ∀ (i : Instr) (s t : State) (l : List CallRecord), i.isBusOp = true → exec i s = .next t →
    t.pending = none → t.calls = s.calls ++ l →
    (∀ k, 1 ≤ k → k < t.attempt → l ≠ [] → attemptRefused s.par s.tpl l k) ∧
    (∃ c, ∀ k, 1 ≤ k → k ≤ t.attempt → l ≠ [] →
      ∃ r, (l.filter (fun r => r.attempt = k)).head? = some r ∧ r.phase = .prolog ∧ r.call = c) ∧
    (∀ r, r ∈ l → r.transportFailure →
      t.responses = s.responses ++ [.err .transportError] ∧ r.attempt = t.attempt ∧
        ∃ e, l.getLast? = some e ∧ e.phase = .epilog ∧ e.attempt = t.attempt)

/-- `NegativeAcknowledgement` (R263) is the answer only after three attempts that each ended with a refused address
or payload byte; the flag is then set; `poll` never answers it. (Unless it is the parameter `ERR_EMPTY`.)
And a refused byte, wherever it stands, ends its attempt at once (R163, R168): the address of either prolog, or a
payload byte, the last one included. The next call is the `STOP`; of all operations but `poll`, where that send is
accepted, another attempt follows, or it was the third and the answer is `NegativeAcknowledgement` (R170). -/
def Obligations.NegativeAcknowledgementTakesThreeRefusals : Prop :=
  ∀ (i : Instr) (s t : State) (l : List CallRecord), exec i s = .next t → t.calls = s.calls ++ l →
    (s.par.errEmpty ≠ .negativeAcknowledgement → t.responses = s.responses ++ [.err .negativeAcknowledgement] →
      t.attempt = 3 ∧ t.ackBit = true ∧ (∀ k, 1 ≤ k → k ≤ 3 → attemptRefused s.par s.tpl l k) ∧
        (∀ a, i ≠ .poll a) ∧ (∀ b, i ≠ .sPoll b)) ∧
    (s.Inv → t.pending = none → ∀ m r q rest, l = m ++ r :: q :: rest → RefusedByte s.par s.tpl r q →
      ∃ e after, rest = e :: after ∧ e.phase = .epilog ∧ e.attempt = r.attempt ∧
        e.call = .sendCommands s.tpl.stop ∧
        (e.answer = .ok → (∀ a, i ≠ .poll a) → (∀ b, i ≠ .sPoll b) →
          r.attempt < t.attempt ∨
            (r.attempt = 3 ∧ t.responses = s.responses ++ [.err .negativeAcknowledgement])))

/-- R264: `PayloadTooLarge` is the answer of an `exchange` of more than 21844 bytes, and of `readFrom` and a
handle's `exchange`, which forward to it, without contacting the Command Engine or changing anything; no other
operation answers it (unless it is the parameter `ERR_EMPTY`). -/
def Obligations.PayloadTooLargeIsTheExchangeBound : Prop :=
  (∀ (i : Instr) (s t : State), s.par.errEmpty ≠ .payloadTooLarge → exec i s = .next t →
      t.responses = s.responses ++ [.err .payloadTooLarge] →
    t = { s with responses := s.responses ++ [.err .payloadTooLarge] } ∧
      ∃ n, 21844 < n ∧ ((∃ a out, i = .exchange a out n) ∨ (∃ b out, i = .sExchange b out n) ∨
        ∃ b r, i = .sReadFrom b r n)) ∧
  (∀ (s : State) (a n : Nat) (out : Bytes), s.free → a ≤ Config.addrMax → out ≠ [] → 21844 < n →
    exec (.exchange a out n) s = .next { s with responses := s.responses ++ [.err .payloadTooLarge] }) ∧
  (∀ (s : State) (b r n : Nat) (h : Handle) (p out : Bytes), s.free → s.SlavesOk → mapGet b s.slaves = some h →
    regEnc h r = some p → out ≠ [] → 21844 < n →
    exec (.sReadFrom b r n) s = .next { s with responses := s.responses ++ [.err .payloadTooLarge] } ∧
    exec (.sExchange b out n) s = .next { s with responses := s.responses ++ [.err .payloadTooLarge] })

/-- A read yields the full requested length or fails (R195, R167): whatever the environment answers, an `Ok` of
`read` or `exchange` holds exactly `n` bytes, those of `RBUF`; and a bus operation that touched the bus and ended with
an error left `RBUF` empty, whatever had been read (R28, R267 (4)). -/
def Obligations.ReadsAreAllOrNothing : Prop :=
  (∀ (s t : State) (a n : Nat) (out : Bytes) (v : Value),
    exec (.read a n) s = .next t ∨ exec (.exchange a out n) s = .next t →
    t.responses = s.responses ++ [.ok v] → 1 ≤ s.chunkSize ∧ ∃ d, v = .bytes d ∧ d.length = n ∧ d = t.txn.rbuf) ∧
  (∀ (i : Instr) (s t : State) (k : ErrKind), i.isBusOp = true → exec i s = .next t → t.calls ≠ s.calls →
    t.responses = s.responses ++ [.err k] → t.txn.rbuf = [])

/-- R71, U1: while an operation is in progress, every `HOST` and `SLAVE` operation is refused, a stuck
engine included (notes/assumptions/22.md). -/
def Obligations.BusyEngineRefuses : Prop :=
  ∀ (i : Instr) (s : State), i.format ≠ .command → ¬s.free → exec i s = .refused .operationInProgress

/-- R78, R312: where the first send of an operation never returns, the engine is stuck where it was: in `PROLOG` for
the four bus operations, at `IDLE` for `flush`; no result, no epilog, and no step after it (the form is the model's,
notes/assumptions/5.md). -/
def Obligations.StalledSendSticksTheEngine : Prop :=
  ∀ (s : State) (a n : Nat) (out : Bytes), s.Ready → a ≤ Config.addrMax → out ≠ [] → 1 ≤ n → s.env.sends = [] →
    let stuck (t : State) (v : Bytes) (p : Phase) (attempt : Nat) : Prop :=
      t.phase = p ∧ t.attempt = attempt ∧ t.pending = some (.sendCommands v) ∧
        t.calls = s.calls ++ [⟨.sendCommands v, p, attempt, .never⟩] ∧ t.responses = s.responses ∧
        step t = .fault .callNeverReturned
    let prologOf (rw : Bool) : Bytes := s.tpl.prologCmd (addressByte a rw)
    (1 ≤ s.chunkSize → ∃ t, exec (.read a n) s = .next t ∧ stuck t (prologOf true) .prolog 1) ∧
    (∃ t, exec (.write a out) s = .next t ∧ stuck t (prologOf false) .prolog 1) ∧
    (1 ≤ s.chunkSize → n ≤ Config.maxXchgRlen →
      ∃ t, exec (.exchange a out n) s = .next t ∧ stuck t (prologOf false) .prolog 1) ∧
    (∃ t, exec (.poll a) s = .next t ∧ stuck t (prologOf s.par.pollRw) .prolog 1) ∧
    (∃ t, exec .flushOp s = .next t ∧ stuck t s.tpl.flush .idle s.attempt)

/-- R308, U2: with `CHUNK_SIZE ≤ 0` a valid `read` or `exchange` is refused; that validation comes first is the
model's choice (notes/assumptions/23.md). -/
def Obligations.NoChunkSizeNoRead : Prop :=
  ∀ (s : State) (a n : Nat) (out : Bytes), s.free → s.configured = true → a ≤ Config.addrMax → 1 ≤ n →
    s.chunkSize ≤ 0 →
    exec (.read a n) s = .refused .chunkSizeNotPositive ∧
    (out ≠ [] → n ≤ Config.maxXchgRlen → exec (.exchange a out n) s = .refused .chunkSizeNotPositive)

/-- The I2C view of an exchange (R147, R193): one start, the written bytes, a repeated start, the bytes read with
master acks and one final nack, and the only stop at the very end. The second prolog is the spec's decision D5; that the
longest line of R147's table is taken first is the model's reading (notes/assumptions/32.md). -/
def Obligations.ExchangeIsOneBusTransaction : Prop :=
  ∀ (s t : State) (a : Nat) (out : Bytes) (n : Nat) (p : Byte) (acks : Bytes) (q : Byte) (chunks : List Bytes)
    (e : Bytes), ExchangeScript s a out n p acks q chunks e → exec (.exchange a out n) s = .next t →
    ∃ v, t.txStream = s.txStream ++ v ∧
      busEvents s.par (unitsOf s.par v) =
        [.start, .write (addressByte a false), .slaveAck] ++ out.flatMap (fun b => [.write b, .slaveAck]) ++
        [.start, .write (addressByte a true), .slaveAck] ++ rep (n - 1) [.read, .masterAck] ++
        [.read, .masterNack, .stop]
end

