-- ==== Sys2Proof/Laws/Codec.lean ====
section
/-! SUPPORT. What the readers and writers of the byte layout do to one another: each argument reader takes back
what its writer wrote, and a buffer's units are the units it was made of. -/

namespace Sys2Proof

open Machine

/-! ### Arguments -/

theorem getNat_putNatFuel (fuel n : Nat) (rest : Bytes) (h : n < fuel) :
    getNat (putNatFuel fuel n ++ rest) = some (n, rest) := by
  induction fuel generalizing n with
  | zero => omega
  | succ fuel ih =>
    unfold putNatFuel
    split
    · next hs =>
      have : (BitVec.ofNat 8 n).toNat = n := by simp; omega
      simp [getNat, this, hs]
    · next hs =>
      have hb : (BitVec.ofNat 8 (n % 128 + 128)).toNat = n % 128 + 128 := by simp; omega
      have hd : n / 128 < fuel := by omega
      simp only [List.cons_append, getNat, hb, ih _ hd]
      rw [if_neg (by omega)]
      simp [Nat.mod_add_div]

@[simp] theorem getNat_putNat (n : Nat) (rest : Bytes) : getNat (putNat n ++ rest) = some (n, rest) :=
  getNat_putNatFuel _ _ _ (Nat.lt_succ_self n)

@[simp] theorem getBool_putBool (b : Bool) (rest : Bytes) : getBool (putBool b ++ rest) = some (b, rest) := by
  cases b <;> simp [putBool, getBool]

@[simp] theorem getBytes_putBytes (bs rest : Bytes) : getBytes (putBytes bs ++ rest) = some (bs, rest) := by
  simp [putBytes, getBytes]

@[simp] theorem freqOf_num_den (f : Freq) : freqOf f.1.num.toNat (f.1.den - 1) = f := by
  have hden : f.1.den - 1 + 1 = f.1.den := Nat.succ_pred_eq_of_pos f.1.den_pos
  have hnum : ((f.1.num.toNat : Nat) : Int) = f.1.num := Int.toNat_of_nonneg (Rat.num_nonneg.2 f.2)
  exact Subtype.ext (by simp only [freqOf, hden, hnum, Rat.mkRat_self])

@[simp] theorem getFreq_putFreq (f : Freq) (rest : Bytes) : getFreq (putFreq f ++ rest) = some (f, rest) := by
  simp [putFreq, getFreq]

@[simp] theorem getNat2_put (a b : Nat) (rest : Bytes) :
    getNat2 (putNat a ++ (putNat b ++ rest)) = some (a, b, rest) := by simp [getNat2]

@[simp] theorem getNatBytes_put (a : Nat) (bs rest : Bytes) :
    getNatBytes (putNat a ++ (putBytes bs ++ rest)) = some (a, bs, rest) := by simp [getNatBytes]

/-! ### Prefixes -/

@[simp] theorem dropPrefix_append (p rest : Bytes) : dropPrefix p (p ++ rest) = some rest := by
  induction p with
  | nil => rfl
  | cons b p ih => simp [dropPrefix, ih]

theorem dropPrefix_eq_some {p bs rest : Bytes} : dropPrefix p bs = some rest ↔ bs = p ++ rest := by
  induction p generalizing bs with
  | nil => simp [dropPrefix, eq_comm]
  | cons b p ih =>
    cases bs with
    | nil => simp [dropPrefix]
    | cons c bs =>
      simp only [dropPrefix]
      split <;> simp_all [eq_comm]

/-- Neither of two heads beginning the other, bytes that begin with one do not begin with the other. -/
theorem dropPrefix_eq_none {p q : Bytes} (h1 : ¬p <+: q) (h2 : ¬q <+: p) (rest : Bytes) :
    dropPrefix p (q ++ rest) = none := by
  cases h : dropPrefix p (q ++ rest) with
  | none => rfl
  | some r =>
    rcases List.prefix_or_prefix_of_prefix (l₃ := q ++ rest) ⟨r, (dropPrefix_eq_some.1 h).symm⟩ ⟨rest, rfl⟩ with h | h
    · exact absurd h h1
    · exact absurd h h2

/-! ### Units -/

theorem Params.ok_iff (P : Params) : P.Ok ↔ P.pins.Ok ∧ P.EncOk ∧ 1 ≤ P.nStopIdle := decide_eq_true_iff

/-- The default parameters are ones the spec allows. -/
theorem params_ok : Config.params.Ok := by decide

/-- The pin sets of the opcode table (30_encoding.md R96): `80 vv dd`. -/
@[simp] theorem pinSetBytes_pinEnc (v d : Byte) : pinSetBytes Config.pinEnc v d = [0x80, v, d] := rfl

theorem lookup_graph {α β : Type} [BEq α] [LawfulBEq α] (g : α → β) {k : α} {ks : List α} (h : k ∈ ks) :
    (ks.map fun k => (k, g k)).lookup k = some (g k) := by
  induction ks with
  | nil => simp at h
  | cons j ks ih =>
    rw [List.map_cons, List.lookup_cons]
    split
    · next he => rw [eq_of_beq he]
    · next hn => exact ih ((List.mem_cons.1 h).resolve_left fun e => by simp [e] at hn)

/-- A pin set may be encoded by any function of its operands (30_encoding.md R96, D7): the data can say each. -/
theorem pinSetBytes_any (f : Byte → Byte → Bytes) : ∃ e : PinEnc, ∀ v d, pinSetBytes e v d = f v d := by
  let bytes : List Byte := (List.range 256).map (BitVec.ofNat 8)
  have hb (b : Byte) : b ∈ bytes := List.mem_map.2 ⟨b.toNat, List.mem_range.2 b.isLt, by simp⟩
  refine ⟨⟨[], (bytes ×ˢ bytes).map fun k => (k, f k.1 k.2)⟩, fun v d => ?_⟩
  rw [pinSetBytes, lookup_graph (fun k : Byte × Byte => f k.1 k.2) (List.mem_product.2 ⟨hb v, hb d⟩)]

theorem unitBytes_writeByte (P : Params) (b : Byte) : unitBytes P (.writeByte b) = P.enc.writeByte ++ [b] := rfl

/-- A unit is `WRITE_BYTE(b)` or one whose bytes the parameters fix. -/
theorem unit_cases (u : CmdUnit) : u ∈ fixedUnits ∨ ∃ b, u = .writeByte b := by
  cases u <;> simp [fixedUnits]

/-- No unit of fixed bytes begins another, nor does one begin the head of `WRITE_BYTE` or that head one of them. -/
theorem Params.EncOk.disjoint {P : Params} (h : P.EncOk) :
    (∀ u ∈ fixedUnits, ¬P.enc.writeByte <+: unitBytes P u ∧ ¬unitBytes P u <+: P.enc.writeByte) ∧
      fixedUnits.Pairwise fun u w => ¬unitBytes P u <+: unitBytes P w ∧ ¬unitBytes P w <+: unitBytes P u := by
  have h := h.2.1
  simp only [unitHeads, List.pairwise_cons, List.forall_mem_map, List.pairwise_map] at h
  exact ⟨fun u hu => ⟨(h.1 u hu).1, (h.1 u hu).2.1⟩, h.2.imp fun hw => ⟨hw.1, hw.2.1⟩⟩

/-- In a list of units none of which begins another, the one at the front of a buffer is found. -/
theorem findSome_unit {P : Params} {us : List CmdUnit} {u : CmdUnit} (hu : u ∈ us)
    (h : us.Pairwise fun u w => ¬unitBytes P u <+: unitBytes P w ∧ ¬unitBytes P w <+: unitBytes P u) (rest : Bytes) :
    (us.findSome? fun w => (dropPrefix (unitBytes P w) (unitBytes P u ++ rest)).map fun r => (w, r)) =
      some (u, rest) := by
  induction us with
  | nil => simp at hu
  | cons w us ih =>
    obtain ⟨hw, hp⟩ := List.pairwise_cons.1 h
    obtain rfl | hm := List.mem_cons.1 hu
    · simp
    · simp [dropPrefix_eq_none (hw u hm).1 (hw u hm).2, ih hm hp]

/-- A unit is self-delimiting (30_encoding.md R94): it is read back from the front of any bytes. -/
theorem parseUnit_unitBytes {P : Params} (he : P.EncOk) (u : CmdUnit) (rest : Bytes) :
    parseUnit P (unitBytes P u ++ rest) = some (u, rest) := by
  obtain ⟨hd, hp⟩ := he.disjoint
  obtain hu | ⟨b, rfl⟩ := unit_cases u
  · simp only [parseUnit, findSome_unit hu hp, Option.some_or]
  · rw [unitBytes_writeByte, List.append_assoc]
    have hn : (fixedUnits.findSome? fun w =>
        (dropPrefix (unitBytes P w) (P.enc.writeByte ++ ([b] ++ rest))).map fun r => (w, r)) = none :=
      List.findSome?_eq_none_iff.2 fun w hw => by simp [dropPrefix_eq_none (hd w hw).2 (hd w hw).1]
    simp only [parseUnit, hn, dropPrefix_append]
    rfl

theorem unitBytes_ne_nil {P : Params} (he : P.EncOk) (u : CmdUnit) : unitBytes P u ≠ [] := by
  obtain hu | ⟨b, rfl⟩ := unit_cases u
  · exact he.1 (unitBytes P u, 0) (List.mem_cons_of_mem _ (List.mem_map.2 ⟨u, hu, rfl⟩))
  · simp [unitBytes]

theorem unitBytes_length_pos {P : Params} (he : P.EncOk) (u : CmdUnit) : 0 < (unitBytes P u).length :=
  List.length_pos_of_ne_nil (unitBytes_ne_nil he u)

/-- Nothing begins with no unit. -/
theorem parseUnit_nil {P : Params} (he : P.EncOk) : parseUnit P [] = none := by
  have hd : ∀ p : Bytes, p ≠ [] → dropPrefix p [] = none := fun p hp => by cases p <;> simp_all [dropPrefix]
  have hn : (fixedUnits.findSome? fun w => (dropPrefix (unitBytes P w) []).map fun r => (w, r)) = none :=
    List.findSome?_eq_none_iff.2 fun w _ => by simp [hd _ (unitBytes_ne_nil he w)]
  simp [parseUnit, hn, hd _ (he.1 (P.enc.writeByte, 1) List.mem_cons_self)]

theorem unitsBytes_nil (P : Params) : unitsBytes P [] = [] := rfl

theorem unitsBytes_cons (P : Params) (u : CmdUnit) (us : List CmdUnit) :
    unitsBytes P (u :: us) = unitBytes P u ++ unitsBytes P us := rfl

theorem unitsBytes_append (P : Params) (us vs : List CmdUnit) :
    unitsBytes P (us ++ vs) = unitsBytes P us ++ unitsBytes P vs := by
  simp [unitsBytes]

theorem length_le_unitsBytes {P : Params} (he : P.EncOk) (us : List CmdUnit) : us.length ≤ (unitsBytes P us).length := by
  induction us with
  | nil => simp
  | cons u us ih =>
    have := unitBytes_length_pos he u
    simp only [unitsBytes_cons, List.length_cons, List.length_append]; omega

theorem parseUnits_unitsBytes {P : Params} (he : P.EncOk) (fuel : Nat) (us : List CmdUnit) (h : us.length ≤ fuel) :
    parseUnits P fuel (unitsBytes P us) = us := by
  induction us generalizing fuel with
  | nil =>
    cases fuel <;> simp [parseUnits, unitsBytes_nil, parseUnit_nil he]
  | cons u us ih =>
    cases fuel with
    | zero => simp at h
    | succ fuel =>
      simp only [List.length_cons, Nat.add_le_add_iff_right] at h
      simp [parseUnits, unitsBytes_cons, parseUnit_unitBytes he, ih fuel h]

/-- A buffer made of units is read back as those units. -/
theorem unitsOf_unitsBytes {P : Params} (he : P.EncOk) (us : List CmdUnit) : unitsOf P (unitsBytes P us) = us :=
  parseUnits_unitsBytes he _ _ (length_le_unitsBytes he us)

/-- Buffers of the same bytes are of the same units. -/
theorem unitsBytes_injective {P : Params} (he : P.EncOk) {us vs : List CmdUnit} (h : unitsBytes P us = unitsBytes P vs) :
    us = vs := by
  rw [← unitsOf_unitsBytes he us, h, unitsOf_unitsBytes he]

theorem unitsBytes_flatten (P : Params) (us : List (List CmdUnit)) :
    unitsBytes P us.flatten = (us.map (unitsBytes P)).flatten := by
  induction us with
  | nil => rfl
  | cons u us ih => simp [unitsBytes_append, ih]

/-- Repeating units repeats their bytes. -/
theorem unitsBytes_rep (P : Params) (k : Nat) (us : List CmdUnit) :
    unitsBytes P (rep k us) = rep k (unitsBytes P us) := by
  simp [rep, unitsBytes_flatten]

/-! ### Pin levels (30_encoding.md R95) -/

/-- Distinct masks of one bit share none. -/
theorem OneBit.disjoint {a b : Byte} (ha : OneBit a) (hb : OneBit b) (h : a ≠ b) : a &&& b = 0 := by
  simp only [OneBit, List.mem_cons, List.not_mem_nil, or_false] at ha hb
  rcases ha with rfl | rfl | rfl | rfl | rfl | rfl | rfl | rfl <;>
    rcases hb with rfl | rfl | rfl | rfl | rfl | rfl | rfl | rfl <;> first | rfl | exact absurd rfl h

theorem OneBit.ne_zero {a : Byte} (h : OneBit a) : a ≠ 0 := by
  rintro rfl; revert h; decide

/-- A line is high where its bit of the value is set, and low where it is clear and the pin driven. -/
theorem lineLevel_high {m v : Byte} (d : Byte) (hm : m ≠ 0) (h : v &&& m = m) : lineLevel m v d = true := by
  have hm : ¬m = 0#8 := hm
  simp [lineLevel, h, hm]

theorem lineLevel_low {m v d : Byte} (hm : m ≠ 0) (hd : d &&& m = m) (h : v &&& m = 0) : lineLevel m v d = false := by
  have hm : ¬m = 0#8 := hm
  simp [lineLevel, h, hd, hm]

theorem and_of_and_or {x a b : Byte} (h : x &&& (a ||| b) = a ||| b) : x &&& a = a ∧ x &&& b = b := by
  constructor <;>
  · refine BitVec.eq_of_getLsbD_eq fun i hi => ?_
    have := congrArg (fun v => v.getLsbD i) h
    simp only [BitVec.getLsbD_and, BitVec.getLsbD_or] at this ⊢
    generalize x.getLsbD i = p at *; generalize a.getLsbD i = q at *; generalize b.getLsbD i = r at *
    revert p q r; decide

/-- Clearing other bits keeps a line's bit, clearing its own clears it. -/
theorem and_not_and {x a b : Byte} (h : x &&& a = a) (hab : a &&& b = 0) : x &&& ~~~b &&& a = a := by
  refine BitVec.eq_of_getLsbD_eq fun i hi => ?_
  have h1 := congrArg (fun v => v.getLsbD i) h
  have h2 := congrArg (fun v => v.getLsbD i) hab
  simp only [BitVec.getLsbD_and, BitVec.ofNat_eq_ofNat, BitVec.getLsbD_zero, BitVec.getLsbD_not, hi, decide_true,
    Bool.true_and] at h1 h2 ⊢
  generalize x.getLsbD i = p at *; generalize a.getLsbD i = q at *; generalize b.getLsbD i = r at *
  revert p q r; decide

theorem and_not_self (x a b : Byte) : x &&& ~~~(a ||| b) &&& a = 0 ∧ x &&& ~~~(a ||| b) &&& b = 0 := by
  constructor <;>
  · ext i hi
    simp only [BitVec.getElem_and, BitVec.getElem_not, BitVec.getElem_or, BitVec.ofNat_eq_ofNat, BitVec.getElem_zero]
    generalize x[i] = p; generalize a[i] = q; generalize b[i] = r
    revert p q r; decide

/-- The levels of the four pin sets: the table of R95. -/
theorem pinSet_levels {p : Pins} (h : p.Ok) :
    (sclLevel p (idleValue p) p.direction = true ∧ sdaLevel p (idleValue p) p.direction = true) ∧
    (sclLevel p (dataLowValue p) p.direction = true ∧ sdaLevel p (dataLowValue p) p.direction = false) ∧
    (sclLevel p (clkDataLowValue p) p.direction = false ∧ sdaLevel p (clkDataLowValue p) p.direction = false) ∧
    (sclLevel p (clkLowDataHighValue p) p.direction = false ∧
      sdaLevel p (clkLowDataHighValue p) p.direction = true) := by
  obtain ⟨hc, hd, -, hcd, -, -, hi, hdir⟩ := h
  obtain ⟨ic, id⟩ := and_of_and_or hi
  obtain ⟨dc, dd⟩ := and_of_and_or hdir
  have h0 := hc.disjoint hd hcd
  have h1 : p.sdaOMask &&& p.sclMask = 0 := by rw [BitVec.and_comm]; exact h0
  have self (x a : Byte) : x &&& ~~~a &&& a = 0 := by simpa using (and_not_self x a a).1
  refine ⟨⟨lineLevel_high _ hc.ne_zero ic, lineLevel_high _ hd.ne_zero id⟩,
    ⟨lineLevel_high _ hc.ne_zero (and_not_and ic h0), lineLevel_low hd.ne_zero dd (self _ _)⟩,
    ⟨lineLevel_low hc.ne_zero dc (and_not_self _ _ _).2, lineLevel_low hd.ne_zero dd (and_not_self _ _ _).1⟩,
    ⟨lineLevel_low hc.ne_zero dc (self _ _), lineLevel_high _ hd.ne_zero (and_not_and id h1)⟩⟩

end Sys2Proof
end

