-- ==== Sys2Proof/Laws/State.lean ====
section
/-! SUPPORT. One lemma per field per update of State, true by unfolding, so that no proof unfolds a record update. -/

namespace Sys2Proof.Machine

variable (s : State)

/-! ### setPhase -/

@[simp] theorem State.setPhase_configured (p : Phase) : (s.setPhase p).configured = s.configured := rfl
@[simp] theorem State.setPhase_bus (p : Phase) : (s.setPhase p).bus = s.bus := rfl
@[simp] theorem State.setPhase_tpl (p : Phase) : (s.setPhase p).tpl = s.tpl := rfl
@[simp] theorem State.setPhase_chunkSize (p : Phase) : (s.setPhase p).chunkSize = s.chunkSize := rfl
@[simp] theorem State.setPhase_phase (p : Phase) : (s.setPhase p).phase = p := rfl
@[simp] theorem State.setPhase_attempt (p : Phase) : (s.setPhase p).attempt = s.attempt := rfl
@[simp] theorem State.setPhase_txn (p : Phase) : (s.setPhase p).txn = s.txn := rfl
@[simp] theorem State.setPhase_ackBit (p : Phase) : (s.setPhase p).ackBit = s.ackBit := rfl
@[simp] theorem State.setPhase_slaves (p : Phase) : (s.setPhase p).slaves = s.slaves := rfl
@[simp] theorem State.setPhase_chunkCache (p : Phase) : (s.setPhase p).chunkCache = s.chunkCache := rfl
@[simp] theorem State.setPhase_ce (p : Phase) : (s.setPhase p).ce = s.ce := rfl
@[simp] theorem State.setPhase_env (p : Phase) : (s.setPhase p).env = s.env := rfl
@[simp] theorem State.setPhase_calls (p : Phase) : (s.setPhase p).calls = s.calls := rfl
@[simp] theorem State.setPhase_pending (p : Phase) : (s.setPhase p).pending = s.pending := rfl
@[simp] theorem State.setPhase_requests (p : Phase) : (s.setPhase p).requests = s.requests := rfl
@[simp] theorem State.setPhase_responses (p : Phase) : (s.setPhase p).responses = s.responses := rfl
@[simp] theorem State.setPhase_freeDraws (p : Phase) : (s.setPhase p).freeDraws = s.freeDraws := rfl
@[simp] theorem State.setPhase_par (p : Phase) : (s.setPhase p).par = s.par := rfl

/-! ### setAttempt -/

@[simp] theorem State.setAttempt_configured (n : Nat) : (s.setAttempt n).configured = s.configured := rfl
@[simp] theorem State.setAttempt_bus (n : Nat) : (s.setAttempt n).bus = s.bus := rfl
@[simp] theorem State.setAttempt_tpl (n : Nat) : (s.setAttempt n).tpl = s.tpl := rfl
@[simp] theorem State.setAttempt_chunkSize (n : Nat) : (s.setAttempt n).chunkSize = s.chunkSize := rfl
@[simp] theorem State.setAttempt_phase (n : Nat) : (s.setAttempt n).phase = s.phase := rfl
@[simp] theorem State.setAttempt_attempt (n : Nat) : (s.setAttempt n).attempt = n := rfl
@[simp] theorem State.setAttempt_txn (n : Nat) : (s.setAttempt n).txn = s.txn := rfl
@[simp] theorem State.setAttempt_ackBit (n : Nat) : (s.setAttempt n).ackBit = s.ackBit := rfl
@[simp] theorem State.setAttempt_slaves (n : Nat) : (s.setAttempt n).slaves = s.slaves := rfl
@[simp] theorem State.setAttempt_chunkCache (n : Nat) : (s.setAttempt n).chunkCache = s.chunkCache := rfl
@[simp] theorem State.setAttempt_ce (n : Nat) : (s.setAttempt n).ce = s.ce := rfl
@[simp] theorem State.setAttempt_env (n : Nat) : (s.setAttempt n).env = s.env := rfl
@[simp] theorem State.setAttempt_calls (n : Nat) : (s.setAttempt n).calls = s.calls := rfl
@[simp] theorem State.setAttempt_pending (n : Nat) : (s.setAttempt n).pending = s.pending := rfl
@[simp] theorem State.setAttempt_requests (n : Nat) : (s.setAttempt n).requests = s.requests := rfl
@[simp] theorem State.setAttempt_responses (n : Nat) : (s.setAttempt n).responses = s.responses := rfl
@[simp] theorem State.setAttempt_freeDraws (n : Nat) : (s.setAttempt n).freeDraws = s.freeDraws := rfl
@[simp] theorem State.setAttempt_par (n : Nat) : (s.setAttempt n).par = s.par := rfl

/-! ### setAckBit -/

@[simp] theorem State.setAckBit_configured (b : Bool) : (s.setAckBit b).configured = s.configured := rfl
@[simp] theorem State.setAckBit_bus (b : Bool) : (s.setAckBit b).bus = s.bus := rfl
@[simp] theorem State.setAckBit_tpl (b : Bool) : (s.setAckBit b).tpl = s.tpl := rfl
@[simp] theorem State.setAckBit_chunkSize (b : Bool) : (s.setAckBit b).chunkSize = s.chunkSize := rfl
@[simp] theorem State.setAckBit_phase (b : Bool) : (s.setAckBit b).phase = s.phase := rfl
@[simp] theorem State.setAckBit_attempt (b : Bool) : (s.setAckBit b).attempt = s.attempt := rfl
@[simp] theorem State.setAckBit_txn (b : Bool) : (s.setAckBit b).txn = s.txn := rfl
@[simp] theorem State.setAckBit_ackBit (b : Bool) : (s.setAckBit b).ackBit = b := rfl
@[simp] theorem State.setAckBit_slaves (b : Bool) : (s.setAckBit b).slaves = s.slaves := rfl
@[simp] theorem State.setAckBit_chunkCache (b : Bool) : (s.setAckBit b).chunkCache = s.chunkCache := rfl
@[simp] theorem State.setAckBit_ce (b : Bool) : (s.setAckBit b).ce = s.ce := rfl
@[simp] theorem State.setAckBit_env (b : Bool) : (s.setAckBit b).env = s.env := rfl
@[simp] theorem State.setAckBit_calls (b : Bool) : (s.setAckBit b).calls = s.calls := rfl
@[simp] theorem State.setAckBit_pending (b : Bool) : (s.setAckBit b).pending = s.pending := rfl
@[simp] theorem State.setAckBit_requests (b : Bool) : (s.setAckBit b).requests = s.requests := rfl
@[simp] theorem State.setAckBit_responses (b : Bool) : (s.setAckBit b).responses = s.responses := rfl
@[simp] theorem State.setAckBit_freeDraws (b : Bool) : (s.setAckBit b).freeDraws = s.freeDraws := rfl
@[simp] theorem State.setAckBit_par (b : Bool) : (s.setAckBit b).par = s.par := rfl

/-! ### setTxn -/

@[simp] theorem State.setTxn_configured (x : Transaction) : (s.setTxn x).configured = s.configured := rfl
@[simp] theorem State.setTxn_bus (x : Transaction) : (s.setTxn x).bus = s.bus := rfl
@[simp] theorem State.setTxn_tpl (x : Transaction) : (s.setTxn x).tpl = s.tpl := rfl
@[simp] theorem State.setTxn_chunkSize (x : Transaction) : (s.setTxn x).chunkSize = s.chunkSize := rfl
@[simp] theorem State.setTxn_phase (x : Transaction) : (s.setTxn x).phase = s.phase := rfl
@[simp] theorem State.setTxn_attempt (x : Transaction) : (s.setTxn x).attempt = s.attempt := rfl
@[simp] theorem State.setTxn_txn (x : Transaction) : (s.setTxn x).txn = x := rfl
@[simp] theorem State.setTxn_ackBit (x : Transaction) : (s.setTxn x).ackBit = s.ackBit := rfl
@[simp] theorem State.setTxn_slaves (x : Transaction) : (s.setTxn x).slaves = s.slaves := rfl
@[simp] theorem State.setTxn_chunkCache (x : Transaction) : (s.setTxn x).chunkCache = s.chunkCache := rfl
@[simp] theorem State.setTxn_ce (x : Transaction) : (s.setTxn x).ce = s.ce := rfl
@[simp] theorem State.setTxn_env (x : Transaction) : (s.setTxn x).env = s.env := rfl
@[simp] theorem State.setTxn_calls (x : Transaction) : (s.setTxn x).calls = s.calls := rfl
@[simp] theorem State.setTxn_pending (x : Transaction) : (s.setTxn x).pending = s.pending := rfl
@[simp] theorem State.setTxn_requests (x : Transaction) : (s.setTxn x).requests = s.requests := rfl
@[simp] theorem State.setTxn_responses (x : Transaction) : (s.setTxn x).responses = s.responses := rfl
@[simp] theorem State.setTxn_freeDraws (x : Transaction) : (s.setTxn x).freeDraws = s.freeDraws := rfl
@[simp] theorem State.setTxn_par (x : Transaction) : (s.setTxn x).par = s.par := rfl

/-! ### setCe -/

@[simp] theorem State.setCe_configured (c : CmdEngine) : (s.setCe c).configured = s.configured := rfl
@[simp] theorem State.setCe_bus (c : CmdEngine) : (s.setCe c).bus = s.bus := rfl
@[simp] theorem State.setCe_tpl (c : CmdEngine) : (s.setCe c).tpl = s.tpl := rfl
@[simp] theorem State.setCe_chunkSize (c : CmdEngine) : (s.setCe c).chunkSize = s.chunkSize := rfl
@[simp] theorem State.setCe_phase (c : CmdEngine) : (s.setCe c).phase = s.phase := rfl
@[simp] theorem State.setCe_attempt (c : CmdEngine) : (s.setCe c).attempt = s.attempt := rfl
@[simp] theorem State.setCe_txn (c : CmdEngine) : (s.setCe c).txn = s.txn := rfl
@[simp] theorem State.setCe_ackBit (c : CmdEngine) : (s.setCe c).ackBit = s.ackBit := rfl
@[simp] theorem State.setCe_slaves (c : CmdEngine) : (s.setCe c).slaves = s.slaves := rfl
@[simp] theorem State.setCe_chunkCache (c : CmdEngine) : (s.setCe c).chunkCache = s.chunkCache := rfl
@[simp] theorem State.setCe_ce (c : CmdEngine) : (s.setCe c).ce = c := rfl
@[simp] theorem State.setCe_env (c : CmdEngine) : (s.setCe c).env = s.env := rfl
@[simp] theorem State.setCe_calls (c : CmdEngine) : (s.setCe c).calls = s.calls := rfl
@[simp] theorem State.setCe_pending (c : CmdEngine) : (s.setCe c).pending = s.pending := rfl
@[simp] theorem State.setCe_requests (c : CmdEngine) : (s.setCe c).requests = s.requests := rfl
@[simp] theorem State.setCe_responses (c : CmdEngine) : (s.setCe c).responses = s.responses := rfl
@[simp] theorem State.setCe_freeDraws (c : CmdEngine) : (s.setCe c).freeDraws = s.freeDraws := rfl
@[simp] theorem State.setCe_par (c : CmdEngine) : (s.setCe c).par = s.par := rfl

/-! ### setEnv -/

@[simp] theorem State.setEnv_configured (e : Env) : (s.setEnv e).configured = s.configured := rfl
@[simp] theorem State.setEnv_bus (e : Env) : (s.setEnv e).bus = s.bus := rfl
@[simp] theorem State.setEnv_tpl (e : Env) : (s.setEnv e).tpl = s.tpl := rfl
@[simp] theorem State.setEnv_chunkSize (e : Env) : (s.setEnv e).chunkSize = s.chunkSize := rfl
@[simp] theorem State.setEnv_phase (e : Env) : (s.setEnv e).phase = s.phase := rfl
@[simp] theorem State.setEnv_attempt (e : Env) : (s.setEnv e).attempt = s.attempt := rfl
@[simp] theorem State.setEnv_txn (e : Env) : (s.setEnv e).txn = s.txn := rfl
@[simp] theorem State.setEnv_ackBit (e : Env) : (s.setEnv e).ackBit = s.ackBit := rfl
@[simp] theorem State.setEnv_slaves (e : Env) : (s.setEnv e).slaves = s.slaves := rfl
@[simp] theorem State.setEnv_chunkCache (e : Env) : (s.setEnv e).chunkCache = s.chunkCache := rfl
@[simp] theorem State.setEnv_ce (e : Env) : (s.setEnv e).ce = s.ce := rfl
@[simp] theorem State.setEnv_env (e : Env) : (s.setEnv e).env = e := rfl
@[simp] theorem State.setEnv_calls (e : Env) : (s.setEnv e).calls = s.calls := rfl
@[simp] theorem State.setEnv_pending (e : Env) : (s.setEnv e).pending = s.pending := rfl
@[simp] theorem State.setEnv_requests (e : Env) : (s.setEnv e).requests = s.requests := rfl
@[simp] theorem State.setEnv_responses (e : Env) : (s.setEnv e).responses = s.responses := rfl
@[simp] theorem State.setEnv_freeDraws (e : Env) : (s.setEnv e).freeDraws = s.freeDraws := rfl
@[simp] theorem State.setEnv_par (e : Env) : (s.setEnv e).par = s.par := rfl

/-! ### setPending -/

@[simp] theorem State.setPending_configured (c : Option Call) : (s.setPending c).configured = s.configured := rfl
@[simp] theorem State.setPending_bus (c : Option Call) : (s.setPending c).bus = s.bus := rfl
@[simp] theorem State.setPending_tpl (c : Option Call) : (s.setPending c).tpl = s.tpl := rfl
@[simp] theorem State.setPending_chunkSize (c : Option Call) : (s.setPending c).chunkSize = s.chunkSize := rfl
@[simp] theorem State.setPending_phase (c : Option Call) : (s.setPending c).phase = s.phase := rfl
@[simp] theorem State.setPending_attempt (c : Option Call) : (s.setPending c).attempt = s.attempt := rfl
@[simp] theorem State.setPending_txn (c : Option Call) : (s.setPending c).txn = s.txn := rfl
@[simp] theorem State.setPending_ackBit (c : Option Call) : (s.setPending c).ackBit = s.ackBit := rfl
@[simp] theorem State.setPending_slaves (c : Option Call) : (s.setPending c).slaves = s.slaves := rfl
@[simp] theorem State.setPending_chunkCache (c : Option Call) : (s.setPending c).chunkCache = s.chunkCache := rfl
@[simp] theorem State.setPending_ce (c : Option Call) : (s.setPending c).ce = s.ce := rfl
@[simp] theorem State.setPending_env (c : Option Call) : (s.setPending c).env = s.env := rfl
@[simp] theorem State.setPending_calls (c : Option Call) : (s.setPending c).calls = s.calls := rfl
@[simp] theorem State.setPending_pending (c : Option Call) : (s.setPending c).pending = c := rfl
@[simp] theorem State.setPending_requests (c : Option Call) : (s.setPending c).requests = s.requests := rfl
@[simp] theorem State.setPending_responses (c : Option Call) : (s.setPending c).responses = s.responses := rfl
@[simp] theorem State.setPending_freeDraws (c : Option Call) : (s.setPending c).freeDraws = s.freeDraws := rfl
@[simp] theorem State.setPending_par (c : Option Call) : (s.setPending c).par = s.par := rfl

/-! ### setConfigured -/

@[simp] theorem State.setConfigured_configured (b : Bool) : (s.setConfigured b).configured = b := rfl
@[simp] theorem State.setConfigured_bus (b : Bool) : (s.setConfigured b).bus = s.bus := rfl
@[simp] theorem State.setConfigured_tpl (b : Bool) : (s.setConfigured b).tpl = s.tpl := rfl
@[simp] theorem State.setConfigured_chunkSize (b : Bool) : (s.setConfigured b).chunkSize = s.chunkSize := rfl
@[simp] theorem State.setConfigured_phase (b : Bool) : (s.setConfigured b).phase = s.phase := rfl
@[simp] theorem State.setConfigured_attempt (b : Bool) : (s.setConfigured b).attempt = s.attempt := rfl
@[simp] theorem State.setConfigured_txn (b : Bool) : (s.setConfigured b).txn = s.txn := rfl
@[simp] theorem State.setConfigured_ackBit (b : Bool) : (s.setConfigured b).ackBit = s.ackBit := rfl
@[simp] theorem State.setConfigured_slaves (b : Bool) : (s.setConfigured b).slaves = s.slaves := rfl
@[simp] theorem State.setConfigured_chunkCache (b : Bool) : (s.setConfigured b).chunkCache = s.chunkCache := rfl
@[simp] theorem State.setConfigured_ce (b : Bool) : (s.setConfigured b).ce = s.ce := rfl
@[simp] theorem State.setConfigured_env (b : Bool) : (s.setConfigured b).env = s.env := rfl
@[simp] theorem State.setConfigured_calls (b : Bool) : (s.setConfigured b).calls = s.calls := rfl
@[simp] theorem State.setConfigured_pending (b : Bool) : (s.setConfigured b).pending = s.pending := rfl
@[simp] theorem State.setConfigured_requests (b : Bool) : (s.setConfigured b).requests = s.requests := rfl
@[simp] theorem State.setConfigured_responses (b : Bool) : (s.setConfigured b).responses = s.responses := rfl
@[simp] theorem State.setConfigured_freeDraws (b : Bool) : (s.setConfigured b).freeDraws = s.freeDraws := rfl
@[simp] theorem State.setConfigured_par (b : Bool) : (s.setConfigured b).par = s.par := rfl

/-! ### setBus -/

@[simp] theorem State.setBus_configured (b : BusConfig) : (s.setBus b).configured = s.configured := rfl
@[simp] theorem State.setBus_bus (b : BusConfig) : (s.setBus b).bus = b := rfl
@[simp] theorem State.setBus_tpl (b : BusConfig) : (s.setBus b).tpl = s.tpl := rfl
@[simp] theorem State.setBus_chunkSize (b : BusConfig) : (s.setBus b).chunkSize = s.chunkSize := rfl
@[simp] theorem State.setBus_phase (b : BusConfig) : (s.setBus b).phase = s.phase := rfl
@[simp] theorem State.setBus_attempt (b : BusConfig) : (s.setBus b).attempt = s.attempt := rfl
@[simp] theorem State.setBus_txn (b : BusConfig) : (s.setBus b).txn = s.txn := rfl
@[simp] theorem State.setBus_ackBit (b : BusConfig) : (s.setBus b).ackBit = s.ackBit := rfl
@[simp] theorem State.setBus_slaves (b : BusConfig) : (s.setBus b).slaves = s.slaves := rfl
@[simp] theorem State.setBus_chunkCache (b : BusConfig) : (s.setBus b).chunkCache = s.chunkCache := rfl
@[simp] theorem State.setBus_ce (b : BusConfig) : (s.setBus b).ce = s.ce := rfl
@[simp] theorem State.setBus_env (b : BusConfig) : (s.setBus b).env = s.env := rfl
@[simp] theorem State.setBus_calls (b : BusConfig) : (s.setBus b).calls = s.calls := rfl
@[simp] theorem State.setBus_pending (b : BusConfig) : (s.setBus b).pending = s.pending := rfl
@[simp] theorem State.setBus_requests (b : BusConfig) : (s.setBus b).requests = s.requests := rfl
@[simp] theorem State.setBus_responses (b : BusConfig) : (s.setBus b).responses = s.responses := rfl
@[simp] theorem State.setBus_freeDraws (b : BusConfig) : (s.setBus b).freeDraws = s.freeDraws := rfl
@[simp] theorem State.setBus_par (b : BusConfig) : (s.setBus b).par = s.par := rfl

/-! ### setTemplates -/

@[simp] theorem State.setTemplates_configured (x : Templates) : (s.setTemplates x).configured = s.configured := rfl
@[simp] theorem State.setTemplates_bus (x : Templates) : (s.setTemplates x).bus = s.bus := rfl
@[simp] theorem State.setTemplates_tpl (x : Templates) : (s.setTemplates x).tpl = x := rfl
@[simp] theorem State.setTemplates_chunkSize (x : Templates) : (s.setTemplates x).chunkSize = s.chunkSize := rfl
@[simp] theorem State.setTemplates_phase (x : Templates) : (s.setTemplates x).phase = s.phase := rfl
@[simp] theorem State.setTemplates_attempt (x : Templates) : (s.setTemplates x).attempt = s.attempt := rfl
@[simp] theorem State.setTemplates_txn (x : Templates) : (s.setTemplates x).txn = s.txn := rfl
@[simp] theorem State.setTemplates_ackBit (x : Templates) : (s.setTemplates x).ackBit = s.ackBit := rfl
@[simp] theorem State.setTemplates_slaves (x : Templates) : (s.setTemplates x).slaves = s.slaves := rfl
@[simp] theorem State.setTemplates_chunkCache (x : Templates) : (s.setTemplates x).chunkCache = s.chunkCache := rfl
@[simp] theorem State.setTemplates_ce (x : Templates) : (s.setTemplates x).ce = s.ce := rfl
@[simp] theorem State.setTemplates_env (x : Templates) : (s.setTemplates x).env = s.env := rfl
@[simp] theorem State.setTemplates_calls (x : Templates) : (s.setTemplates x).calls = s.calls := rfl
@[simp] theorem State.setTemplates_pending (x : Templates) : (s.setTemplates x).pending = s.pending := rfl
@[simp] theorem State.setTemplates_requests (x : Templates) : (s.setTemplates x).requests = s.requests := rfl
@[simp] theorem State.setTemplates_responses (x : Templates) : (s.setTemplates x).responses = s.responses := rfl
@[simp] theorem State.setTemplates_freeDraws (x : Templates) : (s.setTemplates x).freeDraws = s.freeDraws := rfl
@[simp] theorem State.setTemplates_par (x : Templates) : (s.setTemplates x).par = s.par := rfl

/-! ### setChunkSize -/

@[simp] theorem State.setChunkSize_configured (c : Int) : (s.setChunkSize c).configured = s.configured := rfl
@[simp] theorem State.setChunkSize_bus (c : Int) : (s.setChunkSize c).bus = s.bus := rfl
@[simp] theorem State.setChunkSize_tpl (c : Int) : (s.setChunkSize c).tpl = s.tpl := rfl
@[simp] theorem State.setChunkSize_chunkSize (c : Int) : (s.setChunkSize c).chunkSize = c := rfl
@[simp] theorem State.setChunkSize_phase (c : Int) : (s.setChunkSize c).phase = s.phase := rfl
@[simp] theorem State.setChunkSize_attempt (c : Int) : (s.setChunkSize c).attempt = s.attempt := rfl
@[simp] theorem State.setChunkSize_txn (c : Int) : (s.setChunkSize c).txn = s.txn := rfl
@[simp] theorem State.setChunkSize_ackBit (c : Int) : (s.setChunkSize c).ackBit = s.ackBit := rfl
@[simp] theorem State.setChunkSize_slaves (c : Int) : (s.setChunkSize c).slaves = s.slaves := rfl
@[simp] theorem State.setChunkSize_chunkCache (c : Int) : (s.setChunkSize c).chunkCache = s.chunkCache := rfl
@[simp] theorem State.setChunkSize_ce (c : Int) : (s.setChunkSize c).ce = s.ce := rfl
@[simp] theorem State.setChunkSize_env (c : Int) : (s.setChunkSize c).env = s.env := rfl
@[simp] theorem State.setChunkSize_calls (c : Int) : (s.setChunkSize c).calls = s.calls := rfl
@[simp] theorem State.setChunkSize_pending (c : Int) : (s.setChunkSize c).pending = s.pending := rfl
@[simp] theorem State.setChunkSize_requests (c : Int) : (s.setChunkSize c).requests = s.requests := rfl
@[simp] theorem State.setChunkSize_responses (c : Int) : (s.setChunkSize c).responses = s.responses := rfl
@[simp] theorem State.setChunkSize_freeDraws (c : Int) : (s.setChunkSize c).freeDraws = s.freeDraws := rfl
@[simp] theorem State.setChunkSize_par (c : Int) : (s.setChunkSize c).par = s.par := rfl

/-! ### setCache -/

@[simp] theorem State.setCache_configured (m : List (Nat × Bytes)) : (s.setCache m).configured = s.configured := rfl
@[simp] theorem State.setCache_bus (m : List (Nat × Bytes)) : (s.setCache m).bus = s.bus := rfl
@[simp] theorem State.setCache_tpl (m : List (Nat × Bytes)) : (s.setCache m).tpl = s.tpl := rfl
@[simp] theorem State.setCache_chunkSize (m : List (Nat × Bytes)) : (s.setCache m).chunkSize = s.chunkSize := rfl
@[simp] theorem State.setCache_phase (m : List (Nat × Bytes)) : (s.setCache m).phase = s.phase := rfl
@[simp] theorem State.setCache_attempt (m : List (Nat × Bytes)) : (s.setCache m).attempt = s.attempt := rfl
@[simp] theorem State.setCache_txn (m : List (Nat × Bytes)) : (s.setCache m).txn = s.txn := rfl
@[simp] theorem State.setCache_ackBit (m : List (Nat × Bytes)) : (s.setCache m).ackBit = s.ackBit := rfl
@[simp] theorem State.setCache_slaves (m : List (Nat × Bytes)) : (s.setCache m).slaves = s.slaves := rfl
@[simp] theorem State.setCache_chunkCache (m : List (Nat × Bytes)) : (s.setCache m).chunkCache = m := rfl
@[simp] theorem State.setCache_ce (m : List (Nat × Bytes)) : (s.setCache m).ce = s.ce := rfl
@[simp] theorem State.setCache_env (m : List (Nat × Bytes)) : (s.setCache m).env = s.env := rfl
@[simp] theorem State.setCache_calls (m : List (Nat × Bytes)) : (s.setCache m).calls = s.calls := rfl
@[simp] theorem State.setCache_pending (m : List (Nat × Bytes)) : (s.setCache m).pending = s.pending := rfl
@[simp] theorem State.setCache_requests (m : List (Nat × Bytes)) : (s.setCache m).requests = s.requests := rfl
@[simp] theorem State.setCache_responses (m : List (Nat × Bytes)) : (s.setCache m).responses = s.responses := rfl
@[simp] theorem State.setCache_freeDraws (m : List (Nat × Bytes)) : (s.setCache m).freeDraws = s.freeDraws := rfl
@[simp] theorem State.setCache_par (m : List (Nat × Bytes)) : (s.setCache m).par = s.par := rfl

/-! ### setSlaves -/

@[simp] theorem State.setSlaves_configured (m : List (Nat × Handle)) : (s.setSlaves m).configured = s.configured := rfl
@[simp] theorem State.setSlaves_bus (m : List (Nat × Handle)) : (s.setSlaves m).bus = s.bus := rfl
@[simp] theorem State.setSlaves_tpl (m : List (Nat × Handle)) : (s.setSlaves m).tpl = s.tpl := rfl
@[simp] theorem State.setSlaves_chunkSize (m : List (Nat × Handle)) : (s.setSlaves m).chunkSize = s.chunkSize := rfl
@[simp] theorem State.setSlaves_phase (m : List (Nat × Handle)) : (s.setSlaves m).phase = s.phase := rfl
@[simp] theorem State.setSlaves_attempt (m : List (Nat × Handle)) : (s.setSlaves m).attempt = s.attempt := rfl
@[simp] theorem State.setSlaves_txn (m : List (Nat × Handle)) : (s.setSlaves m).txn = s.txn := rfl
@[simp] theorem State.setSlaves_ackBit (m : List (Nat × Handle)) : (s.setSlaves m).ackBit = s.ackBit := rfl
@[simp] theorem State.setSlaves_slaves (m : List (Nat × Handle)) : (s.setSlaves m).slaves = m := rfl
@[simp] theorem State.setSlaves_chunkCache (m : List (Nat × Handle)) : (s.setSlaves m).chunkCache = s.chunkCache := rfl
@[simp] theorem State.setSlaves_ce (m : List (Nat × Handle)) : (s.setSlaves m).ce = s.ce := rfl
@[simp] theorem State.setSlaves_env (m : List (Nat × Handle)) : (s.setSlaves m).env = s.env := rfl
@[simp] theorem State.setSlaves_calls (m : List (Nat × Handle)) : (s.setSlaves m).calls = s.calls := rfl
@[simp] theorem State.setSlaves_pending (m : List (Nat × Handle)) : (s.setSlaves m).pending = s.pending := rfl
@[simp] theorem State.setSlaves_requests (m : List (Nat × Handle)) : (s.setSlaves m).requests = s.requests := rfl
@[simp] theorem State.setSlaves_responses (m : List (Nat × Handle)) : (s.setSlaves m).responses = s.responses := rfl
@[simp] theorem State.setSlaves_freeDraws (m : List (Nat × Handle)) : (s.setSlaves m).freeDraws = s.freeDraws := rfl
@[simp] theorem State.setSlaves_par (m : List (Nat × Handle)) : (s.setSlaves m).par = s.par := rfl

/-! ### setRequests -/

@[simp] theorem State.setRequests_configured (r : List Bytes) : (s.setRequests r).configured = s.configured := rfl
@[simp] theorem State.setRequests_bus (r : List Bytes) : (s.setRequests r).bus = s.bus := rfl
@[simp] theorem State.setRequests_tpl (r : List Bytes) : (s.setRequests r).tpl = s.tpl := rfl
@[simp] theorem State.setRequests_chunkSize (r : List Bytes) : (s.setRequests r).chunkSize = s.chunkSize := rfl
@[simp] theorem State.setRequests_phase (r : List Bytes) : (s.setRequests r).phase = s.phase := rfl
@[simp] theorem State.setRequests_attempt (r : List Bytes) : (s.setRequests r).attempt = s.attempt := rfl
@[simp] theorem State.setRequests_txn (r : List Bytes) : (s.setRequests r).txn = s.txn := rfl
@[simp] theorem State.setRequests_ackBit (r : List Bytes) : (s.setRequests r).ackBit = s.ackBit := rfl
@[simp] theorem State.setRequests_slaves (r : List Bytes) : (s.setRequests r).slaves = s.slaves := rfl
@[simp] theorem State.setRequests_chunkCache (r : List Bytes) : (s.setRequests r).chunkCache = s.chunkCache := rfl
@[simp] theorem State.setRequests_ce (r : List Bytes) : (s.setRequests r).ce = s.ce := rfl
@[simp] theorem State.setRequests_env (r : List Bytes) : (s.setRequests r).env = s.env := rfl
@[simp] theorem State.setRequests_calls (r : List Bytes) : (s.setRequests r).calls = s.calls := rfl
@[simp] theorem State.setRequests_pending (r : List Bytes) : (s.setRequests r).pending = s.pending := rfl
@[simp] theorem State.setRequests_requests (r : List Bytes) : (s.setRequests r).requests = r := rfl
@[simp] theorem State.setRequests_responses (r : List Bytes) : (s.setRequests r).responses = s.responses := rfl
@[simp] theorem State.setRequests_freeDraws (r : List Bytes) : (s.setRequests r).freeDraws = s.freeDraws := rfl
@[simp] theorem State.setRequests_par (r : List Bytes) : (s.setRequests r).par = s.par := rfl

/-! ### respond -/

@[simp] theorem State.respond_configured (r : Result) : (s.respond r).configured = s.configured := rfl
@[simp] theorem State.respond_bus (r : Result) : (s.respond r).bus = s.bus := rfl
@[simp] theorem State.respond_tpl (r : Result) : (s.respond r).tpl = s.tpl := rfl
@[simp] theorem State.respond_chunkSize (r : Result) : (s.respond r).chunkSize = s.chunkSize := rfl
@[simp] theorem State.respond_phase (r : Result) : (s.respond r).phase = s.phase := rfl
@[simp] theorem State.respond_attempt (r : Result) : (s.respond r).attempt = s.attempt := rfl
@[simp] theorem State.respond_txn (r : Result) : (s.respond r).txn = s.txn := rfl
@[simp] theorem State.respond_ackBit (r : Result) : (s.respond r).ackBit = s.ackBit := rfl
@[simp] theorem State.respond_slaves (r : Result) : (s.respond r).slaves = s.slaves := rfl
@[simp] theorem State.respond_chunkCache (r : Result) : (s.respond r).chunkCache = s.chunkCache := rfl
@[simp] theorem State.respond_ce (r : Result) : (s.respond r).ce = s.ce := rfl
@[simp] theorem State.respond_env (r : Result) : (s.respond r).env = s.env := rfl
@[simp] theorem State.respond_calls (r : Result) : (s.respond r).calls = s.calls := rfl
@[simp] theorem State.respond_pending (r : Result) : (s.respond r).pending = s.pending := rfl
@[simp] theorem State.respond_requests (r : Result) : (s.respond r).requests = s.requests := rfl
@[simp] theorem State.respond_responses (r : Result) : (s.respond r).responses = s.responses ++ [r] := rfl
@[simp] theorem State.respond_freeDraws (r : Result) : (s.respond r).freeDraws = s.freeDraws := rfl
@[simp] theorem State.respond_par (r : Result) : (s.respond r).par = s.par := rfl

/-! ### drawFreq -/

@[simp] theorem State.drawFreq_configured : (s.drawFreq).configured = s.configured := rfl
@[simp] theorem State.drawFreq_bus : (s.drawFreq).bus = s.bus := rfl
@[simp] theorem State.drawFreq_tpl : (s.drawFreq).tpl = s.tpl := rfl
@[simp] theorem State.drawFreq_chunkSize : (s.drawFreq).chunkSize = s.chunkSize := rfl
@[simp] theorem State.drawFreq_phase : (s.drawFreq).phase = s.phase := rfl
@[simp] theorem State.drawFreq_attempt : (s.drawFreq).attempt = s.attempt := rfl
@[simp] theorem State.drawFreq_txn : (s.drawFreq).txn = s.txn := rfl
@[simp] theorem State.drawFreq_ackBit : (s.drawFreq).ackBit = s.ackBit := rfl
@[simp] theorem State.drawFreq_slaves : (s.drawFreq).slaves = s.slaves := rfl
@[simp] theorem State.drawFreq_chunkCache : (s.drawFreq).chunkCache = s.chunkCache := rfl
@[simp] theorem State.drawFreq_ce : (s.drawFreq).ce = s.ce := rfl
@[simp] theorem State.drawFreq_env : (s.drawFreq).env = s.env := rfl
@[simp] theorem State.drawFreq_calls : (s.drawFreq).calls = s.calls := rfl
@[simp] theorem State.drawFreq_pending : (s.drawFreq).pending = s.pending := rfl
@[simp] theorem State.drawFreq_requests : (s.drawFreq).requests = s.requests := rfl
@[simp] theorem State.drawFreq_responses : (s.drawFreq).responses = s.responses := rfl
@[simp] theorem State.drawFreq_freeDraws : (s.drawFreq).freeDraws = s.freeDraws + 1 := rfl
@[simp] theorem State.drawFreq_par : (s.drawFreq).par = s.par := rfl

/-! ### record -/

@[simp] theorem State.record_configured (c : Call) (a : Answer) : (s.record c a).configured = s.configured := rfl
@[simp] theorem State.record_bus (c : Call) (a : Answer) : (s.record c a).bus = s.bus := rfl
@[simp] theorem State.record_tpl (c : Call) (a : Answer) : (s.record c a).tpl = s.tpl := rfl
@[simp] theorem State.record_chunkSize (c : Call) (a : Answer) : (s.record c a).chunkSize = s.chunkSize := rfl
@[simp] theorem State.record_phase (c : Call) (a : Answer) : (s.record c a).phase = s.phase := rfl
@[simp] theorem State.record_attempt (c : Call) (a : Answer) : (s.record c a).attempt = s.attempt := rfl
@[simp] theorem State.record_txn (c : Call) (a : Answer) : (s.record c a).txn = s.txn := rfl
@[simp] theorem State.record_ackBit (c : Call) (a : Answer) : (s.record c a).ackBit = s.ackBit := rfl
@[simp] theorem State.record_slaves (c : Call) (a : Answer) : (s.record c a).slaves = s.slaves := rfl
@[simp] theorem State.record_chunkCache (c : Call) (a : Answer) : (s.record c a).chunkCache = s.chunkCache := rfl
@[simp] theorem State.record_ce (c : Call) (a : Answer) : (s.record c a).ce = s.ce := rfl
@[simp] theorem State.record_env (c : Call) (a : Answer) : (s.record c a).env = s.env := rfl
@[simp] theorem State.record_calls (c : Call) (a : Answer) : (s.record c a).calls = s.calls ++ [⟨c, s.phase, s.attempt, a⟩] := rfl
@[simp] theorem State.record_pending (c : Call) (a : Answer) : (s.record c a).pending = s.pending := rfl
@[simp] theorem State.record_requests (c : Call) (a : Answer) : (s.record c a).requests = s.requests := rfl
@[simp] theorem State.record_responses (c : Call) (a : Answer) : (s.record c a).responses = s.responses := rfl
@[simp] theorem State.record_freeDraws (c : Call) (a : Answer) : (s.record c a).freeDraws = s.freeDraws := rfl
@[simp] theorem State.record_par (c : Call) (a : Answer) : (s.record c a).par = s.par := rfl

end Sys2Proof.Machine
end

