-- ==== Sys2Proof/Laws/Ops.lean ====
section
/-! SUPPORT. The shared operations, each said once: the keyed stores, the Command Engine calls, how an operation
ends, and a postcondition calculus for procedures of calls that may get stuck. -/

namespace Sys2Proof.Machine

/-! ### Keyed stores -/

variable {α : Type}

@[simp] theorem mapGet_nil (k : Nat) : mapGet k ([] : List (Nat × α)) = none := rfl

@[simp] theorem mapGet_mapPut_same (k : Nat) (v : α) (m : List (Nat × α)) :
    mapGet k (mapPut k v m) = some v := by
  induction m with
  | nil => simp [mapPut, mapGet]
  | cons e m ih =>
    obtain ⟨j, a⟩ := e
    simp only [mapPut]
    split
    · simp [mapGet]
    · split
      · simp [mapGet]
      · next h1 h2 => simp [mapGet, Ne.symm h2, ih]

@[simp] theorem mapGet_mapPut_other {j k : Nat} (h : j ≠ k) (v : α) (m : List (Nat × α)) :
    mapGet j (mapPut k v m) = mapGet j m := by
  induction m with
  | nil => simp [mapPut, mapGet, Ne.symm h]
  | cons e m ih =>
    obtain ⟨i, a⟩ := e
    simp only [mapPut]
    split
    · simp [mapGet, Ne.symm h]
    · split
      · next h1 h2 => subst h2; simp [mapGet, Ne.symm h]
      · simp [mapGet, ih]

theorem mem_mapPut {e : Nat × α} {k : Nat} {v : α} {m : List (Nat × α)} (h : e ∈ mapPut k v m) :
    e = (k, v) ∨ e ∈ m := by
  induction m with
  | nil => simpa [mapPut] using h
  | cons f m ih =>
    obtain ⟨j, a⟩ := f
    simp only [mapPut] at h
    split at h
    · simpa using h
    · split at h
      · rcases List.mem_cons.1 h with h | h
        · exact .inl h
        · exact .inr (List.mem_cons_of_mem _ h)
      · rcases List.mem_cons.1 h with h | h
        · exact .inr (h ▸ List.mem_cons_self)
        · exact (ih h).imp_right (List.mem_cons_of_mem _)

/-- Writing a keyed store keeps its canonical form. -/
theorem mapPut_wf (k : Nat) (v : α) {m : List (Nat × α)} (h : mapWf m) : mapWf (mapPut k v m) := by
  induction m with
  | nil => simp [mapPut, mapWf]
  | cons e m ih =>
    obtain ⟨j, a⟩ := e
    simp only [mapWf, List.map_cons, List.pairwise_cons] at h
    simp only [mapPut]
    split
    · next hk =>
      simp only [mapWf, List.map_cons, List.pairwise_cons, List.mem_cons, forall_eq_or_imp]
      exact ⟨⟨hk, fun x hx => lt_trans hk (h.1 x hx)⟩, h⟩
    · split
      · next hk => subst hk; simpa only [mapWf, List.map_cons, List.pairwise_cons] using h
      · next h1 h2 =>
        simp only [mapWf, List.map_cons, List.pairwise_cons]
        refine ⟨fun x hx => ?_, ih h.2⟩
        obtain ⟨e, he, rfl⟩ := List.mem_map.1 hx
        rcases mem_mapPut he with rfl | he
        · show j < k; omega
        · exact h.1 _ (List.mem_map_of_mem he)

theorem mem_of_mapGet {k : Nat} {v : α} {m : List (Nat × α)} (h : mapGet k m = some v) : (k, v) ∈ m := by
  induction m with
  | nil => simp at h
  | cons e m ih =>
    obtain ⟨j, a⟩ := e
    simp only [mapGet] at h
    split at h
    · next hj => cases h; subst hj; exact List.mem_cons_self
    · exact List.mem_cons_of_mem _ (ih h)

/-! ### Procedures -/

variable {β : Type}

@[simp] theorem Proc.andThen_done (a : α) (s : State) (f : α → State → Proc β) :
    (Proc.done a s).andThen f = f a s := rfl

@[simp] theorem Proc.run_done (a : α) (s : State) : (Proc.done a s).run = .done a s := rfl

theorem Proc.andThen_assoc {γ : Type} (p : Proc α) (f : α → State → Proc β) (g : β → State → Proc γ) :
    (p.andThen f).andThen g = p.andThen fun a s => (f a s).andThen g := by
  induction p with
  | done a s => rfl
  | call c s k ih => simp only [Proc.andThen, ih]

/-- A procedure that returns is followed by what comes after it. -/
theorem Proc.run_andThen_of_done {p : Proc α} {a : α} {s : State} (h : p.run = .done a s)
    (f : α → State → Proc β) : (p.andThen f).run = (f a s).run := by
  induction p with
  | done a' s' => cases h; rfl
  | call c s' k ih =>
    simp only [Proc.run, Proc.andThen] at h ⊢
    cases hp : perform c s' with
    | none => simp [hp] at h
    | some r => simp only [hp] at h ⊢; exact ih _ _ h

/-- Nothing comes after a procedure that is stuck. -/
theorem Proc.run_andThen_of_stuck {p : Proc α} {s : State} (h : p.run = .stuck s) (f : α → State → Proc β) :
    (p.andThen f).run = .stuck s := by
  induction p with
  | done a' s' => cases h
  | call c s' k ih =>
    simp only [Proc.run, Proc.andThen] at h ⊢
    cases hp : perform c s' with
    | none => simpa [hp] using h
    | some r => simp only [hp] at h ⊢; exact ih _ _ h

/-- Every way a procedure can come out: `P` of what it returns, or `Q` where it got stuck. -/
def Proc.Ensures (p : Proc α) (P : α → State → Prop) (Q : State → Prop) : Prop :=
  match p.run with
  | .done a s => P a s
  | .stuck s => Q s

@[simp] theorem Proc.ensures_done (a : α) (s : State) (P : α → State → Prop) (Q : State → Prop) :
    (Proc.done a s).Ensures P Q ↔ P a s := Iff.rfl

theorem Proc.ensures_of_run_done {p : Proc α} {a : α} {s : State} (h : p.run = .done a s)
    {P : α → State → Prop} {Q : State → Prop} : p.Ensures P Q ↔ P a s := by simp [Proc.Ensures, h]

theorem Proc.ensures_of_run_stuck {p : Proc α} {s : State} (h : p.run = .stuck s)
    {P : α → State → Prop} {Q : State → Prop} : p.Ensures P Q ↔ Q s := by simp [Proc.Ensures, h]

theorem Proc.Ensures.mono {p : Proc α} {P P' : α → State → Prop} {Q Q' : State → Prop} (h : p.Ensures P Q)
    (hP : ∀ a s, P a s → P' a s) (hQ : ∀ s, Q s → Q' s) : p.Ensures P' Q' := by
  unfold Proc.Ensures at *
  split <;> simp_all

theorem Proc.Ensures.andThen {p : Proc α} {f : α → State → Proc β} {P : α → State → Prop}
    {P' : β → State → Prop} {Q : State → Prop} (h : p.Ensures P Q) (hf : ∀ a s, P a s → (f a s).Ensures P' Q) :
    (p.andThen f).Ensures P' Q := by
  cases hr : p.run with
  | done a s =>
    have := hf a s ((Proc.ensures_of_run_done hr).1 h)
    simpa only [Proc.Ensures, Proc.run_andThen_of_done hr] using this
  | stuck s =>
    exact (Proc.ensures_of_run_stuck (Proc.run_andThen_of_stuck hr f)).2 ((Proc.ensures_of_run_stuck hr).1 h)

/-- A procedure is run by the steps of the engine: they lead to its end, or to the call that does not return. -/
theorem Proc.run_eq_steps (p : Proc α) :
    ∃ n q, p.engineSteps n = some q ∧ q.engineStep = none ∧
      ((∃ a s, q = .done a s ∧ p.run = .done a s) ∨ (∃ c s k, q = .call c s k ∧ p.run = .stuck (hang c s))) := by
  induction p with
  | done a s => exact ⟨0, _, rfl, rfl, .inl ⟨a, s, rfl, rfl⟩⟩
  | call c s k ih =>
    cases hp : perform c s with
    | none => exact ⟨0, _, rfl, by simp [Proc.engineStep, hp], .inr ⟨c, s, k, rfl, by simp [Proc.run, hp]⟩⟩
    | some r =>
      obtain ⟨n, q, h1, h2, h3⟩ := ih r.1 r.2
      refine ⟨n + 1, q, ?_, h2, ?_⟩
      · simpa [Proc.engineSteps, Proc.engineStep, hp] using h1
      · simpa [Proc.run, hp] using h3

/-! ### Command Engine calls -/

/-- A call that returns is recorded, as made in the state it was made in, and changes nothing of the block: only the
Command Engine, the environment's answers and the record. -/
theorem perform_frame {c : Call} {s t : State} {a : Answer} (h : perform c s = some (a, t)) :
    a ≠ .never ∧ t = { s with
      ce := t.ce, env := t.env, calls := s.calls ++ [⟨c, s.phase, s.attempt, a⟩] } := by
  cases c <;>
    simp only [perform, answerConnect, answerSetOutputLevels, answerSetClockPhaseMode, answerSetDriveZeroMode,
      answerSend, answerReceive, answerClose] at h <;>
    (try split at h) <;> cases h <;> refine ⟨?_, rfl⟩ <;> try (intro e; cases e)
  all_goals (rename_i b _ _; cases b <;> simp)

/-- The state a `sendCommands` call leaves, answer `ok`, the other answers `rest`. -/
def sent (v : Bytes) (ok : Bool) (rest : List Bool) (s : State) : State :=
  ((s.setEnv { s.env with sends := rest }).setCe
    (bif ok then s.ce.execute s.par v else s.ce.cutShort s.par v)).record (.sendCommands v)
      (bif ok then .ok else .failed)

/-- The state a `receiveBytes` call leaves, bytes `r`, the other answers `rest`. -/
def received (n budget : Nat) (r : Bytes) (rest : List Bytes) (s : State) : State :=
  ((s.setEnv { s.env with receives := rest }).setCe (s.ce.consume r.length)).record
    (.receiveBytes n budget) (.bytes r)

/-- The state in which a call does not return, the Command Engine being as the call left it. -/
def hung (c : Call) (s : State) : State := (s.record c .never).setPending (some c)

theorem hang_eq (c : Call) (s : State) : hang c s = hung c (s.setCe (s.ce.interrupted s.par c)) := rfl

theorem memWrite_cons {s : State} {ok : Bool} {rest : List Bool} (v : Bytes) (h : s.env.sends = ok :: rest) :
    (memWrite v s).run = .done ok (sent v ok rest s) := by
  cases ok <;> simp [memWrite, Proc.run, perform, answerSend, h, sent]

theorem memWrite_nil {s : State} (v : Bytes) (h : s.env.sends = []) :
    (memWrite v s).run = .stuck (hung (.sendCommands v) (s.setCe (s.ce.cutShort s.par v))) := by
  simp [memWrite, Proc.run, perform, answerSend, h, hang_eq, CmdEngine.interrupted]

theorem memRead_cons {s : State} {r : Bytes} {rest : List Bytes} (n budget : Nat)
    (h : s.env.receives = r :: rest) :
    (memRead n budget s).run = .done (r.take n) (received n budget (r.take n) rest s) := by
  simp [memRead, Proc.run, perform, answerReceive, h, received]

theorem memRead_nil {s : State} (n budget : Nat) (h : s.env.receives = []) :
    (memRead n budget s).run = .stuck (hung (.receiveBytes n budget) s) := by
  simp [memRead, Proc.run, perform, answerReceive, h, hang_eq, CmdEngine.interrupted, State.setCe]

/-- Everything a send can come to. -/
theorem memWrite_cases (v : Bytes) (s : State) :
    (∃ ok rest, s.env.sends = ok :: rest ∧ (memWrite v s).run = .done ok (sent v ok rest s)) ∨
      (s.env.sends = [] ∧
        (memWrite v s).run = .stuck (hung (.sendCommands v) (s.setCe (s.ce.cutShort s.par v)))) := by
  cases h : s.env.sends with
  | nil => exact .inr ⟨rfl, memWrite_nil v h⟩
  | cons ok rest => exact .inl ⟨ok, rest, rfl, memWrite_cons v h⟩

/-- Everything a receive can come to. -/
theorem memRead_cases (n budget : Nat) (s : State) :
    (∃ r rest, s.env.receives = r :: rest ∧
        (memRead n budget s).run = .done (r.take n) (received n budget (r.take n) rest s)) ∨
      (s.env.receives = [] ∧ (memRead n budget s).run = .stuck (hung (.receiveBytes n budget) s)) := by
  cases h : s.env.receives with
  | nil => exact .inr ⟨rfl, memRead_nil n budget h⟩
  | cons r rest => exact .inl ⟨r, rest, rfl, memRead_cons n budget h⟩

/-! The calls of `configure` and `terminate`. -/

theorem callConnect_ok {s : State} {clock : Freq} {tx rx : Nat} {rest : List (Option (Nat × Nat))}
    (h : s.env.connects = some (tx, rx) :: rest) :
    (callConnect clock s).run = .done (some (tx, rx)) ((s.setEnv { s.env with connects := rest }).record
      (.connect clock s.par.pins.idleLevel s.par.pins.direction) (.connected tx rx)) := by
  simp [callConnect, Proc.run, perform, answerConnect, h]

theorem callConnect_failed {s : State} {clock : Freq} {rest : List (Option (Nat × Nat))}
    (h : s.env.connects = none :: rest) :
    (callConnect clock s).run = .done none (((s.setEnv { s.env with connects := rest }).setCe
      s.ce.disconnected).record (.connect clock s.par.pins.idleLevel s.par.pins.direction) .failed) := by
  simp [callConnect, Proc.run, perform, answerConnect, h]

theorem callSetOutputLevels_run (s : State) :
    (callSetOutputLevels s).run =
      .done () ((s.setCe (s.ce.pinSet s.par.pins s.par.pins.idleLevel s.par.pins.direction)).record
        (.setOutputLevels s.par.pins.idleLevel s.par.pins.direction) .returned) := rfl

theorem callSetClockPhaseMode_run (s : State) :
    (callSetClockPhaseMode s).run = .done () (s.record (.setClockPhaseMode true) .returned) := rfl

theorem callSetDriveZeroMode_cons {s : State} {z : Bool} {rest : List Bool} (h : s.env.driveZero = z :: rest) :
    (callSetDriveZeroMode s).run = .done z ((s.setEnv { s.env with driveZero := rest }).record
      (.setDriveZeroMode s.par.driveZeroMask) (bif z then .ok else .unsupported)) := by
  cases z <;> simp [callSetDriveZeroMode, Proc.run, perform, answerSetDriveZeroMode, h]

theorem callClose_run (s : State) :
    (callClose s).run = .done () ((s.setCe s.ce.disconnected).record .close .returned) := rfl

/-! ### How an operation ends -/

@[simp] theorem Operation.outcome_running (p : Proc Result) : (Operation.running p).outcome = p.run.outcome := rfl

@[simp] theorem Operation.outcome_refused (r : Refusal) : (Operation.refused r).outcome = .refused r := rfl

@[simp] theorem whenFree_of_free {s : State} (h : s.free) (k : Operation) : whenFree s k = k := if_pos h

@[simp] theorem whenFree_of_busy {s : State} (h : ¬s.free) (k : Operation) :
    whenFree s k = .refused .operationInProgress := if_neg h

/-- A host operation that answers a next state started on a free engine. -/
theorem whenFree_next {s t : State} {k : Operation} (h : (whenFree s k).outcome = .next t) :
    s.free ∧ k.outcome = .next t := by
  unfold whenFree at h
  split at h
  · exact ⟨‹_›, h⟩
  · cases h

/-- Everything an operation's end can be. -/
theorem Run.outcome_next {r : Run Result} {t : State} (h : r.outcome = .next t) :
    (∃ res s, r = .done res s ∧ t = (s.setPhase .idle).respond res) ∨ r = .stuck t := by
  cases r with
  | stuck s => simp only [Run.outcome, Host.Outcome.next.injEq] at h; exact .inr (h ▸ rfl)
  | done res s =>
    cases res with
    | ok v => simp only [Run.outcome, Host.Outcome.next.injEq] at h; exact .inl ⟨_, s, rfl, h ▸ rfl⟩
    | err k => simp only [Run.outcome, Host.Outcome.next.injEq] at h; exact .inl ⟨_, s, rfl, h ▸ rfl⟩

@[simp] theorem Run.outcome_done (res : Result) (s : State) :
    (Run.done res s).outcome = .next ((s.setPhase .idle).respond res) := by cases res <;> rfl

@[simp] theorem Run.outcome_stuck (s : State) : (Run.stuck s : Run Result).outcome = .next s := rfl

@[simp] theorem endWith_outcome (r : Result) (s : State) :
    (endWith r s).outcome = .next ((s.setPhase .idle).respond r) := Run.outcome_done r s

/-- The bound of `exchange` as a numeral. -/
theorem maxXchgRlen_eq : Config.maxXchgRlen = 21844 := rfl

end Sys2Proof.Machine
end

