-- ==== Sys2Proof/Laws/Engine.lean ====
section
/-! SUPPORT. Between two Command Engine calls a procedure of the engine makes no record of its own, so each step of the
engine (00_scope.md R6) adds exactly the record of its one call. -/

namespace Sys2Proof.Machine

variable {α β : Type}

/-- What a procedure does on its own leaves the record of calls alone: up to its first call, and after each answer up
to the next. -/
def Proc.Quiet (s : State) : Proc α → Prop
  | .done _ t => t.calls = s.calls
  | .call _ t k => t.calls = s.calls ∧ ∀ a u, (k a u).Quiet u

theorem Proc.Quiet.of_calls {p : Proc α} {s t : State} (h : p.Quiet t) (e : t.calls = s.calls) : p.Quiet s := by
  cases p with
  | done a u => exact Eq.trans h e
  | call c u k => exact ⟨h.1.trans e, h.2⟩

theorem Proc.Quiet.andThen {p : Proc α} {f : α → State → Proc β} {s : State} (h : p.Quiet s)
    (hf : ∀ a t, (f a t).Quiet t) : (p.andThen f).Quiet s := by
  induction p generalizing s with
  | done a t => exact (hf a t).of_calls h
  | call c t k ih => exact ⟨h.1, fun a u => ih a u (h.2 a u)⟩

theorem Proc.Quiet.state_calls {p : Proc α} {s : State} (h : p.Quiet s) : p.state.calls = s.calls := by
  cases p with
  | done a t => exact h
  | call c t k => exact h.1

/-- A step of a quiet procedure adds the record of its call, and leaves a quiet procedure. -/
theorem Proc.Quiet.step {p q : Proc α} {s : State} (h : p.Quiet s) (hs : p.engineStep = some q) :
    ∃ c a, a ≠ .never ∧ q.state.calls = p.state.calls ++ [⟨c, p.state.phase, p.state.attempt, a⟩] ∧
      ∃ t, q.Quiet t ∧ t.calls = q.state.calls := by
  cases p with
  | done a t => cases hs
  | call c t k =>
    cases hp : perform c t with
    | none => simp [Proc.engineStep, hp] at hs
    | some r =>
      simp only [Proc.engineStep, hp, Option.map_some, Option.some.injEq] at hs
      obtain ⟨ha, ht⟩ := perform_frame hp
      have hq := h.2 r.1 r.2
      rw [hs] at hq
      refine ⟨c, r.1, ha, hq.state_calls.trans (congrArg State.calls ht), r.2, hq, hq.state_calls.symm⟩

/-! ### The procedures of the engine -/

theorem memWrite_quiet (v : Bytes) (s : State) : (memWrite v s).Quiet s := ⟨rfl, fun _ _ => rfl⟩

theorem memRead_quiet (n budget : Nat) (s : State) : (memRead n budget s).Quiet s := ⟨rfl, fun _ _ => rfl⟩

theorem callConnect_quiet (f : Freq) (s : State) : (callConnect f s).Quiet s := ⟨rfl, fun _ _ => rfl⟩

theorem callSetOutputLevels_quiet (s : State) : (callSetOutputLevels s).Quiet s := ⟨rfl, fun _ _ => rfl⟩

theorem callSetClockPhaseMode_quiet (s : State) : (callSetClockPhaseMode s).Quiet s := ⟨rfl, fun _ _ => rfl⟩

theorem callSetDriveZeroMode_quiet (s : State) : (callSetDriveZeroMode s).Quiet s := ⟨rfl, fun _ _ => rfl⟩

theorem callClose_quiet (s : State) : (callClose s).Quiet s := ⟨rfl, fun _ _ => rfl⟩

theorem roundTrip_quiet {v : Bytes} {n budget : Nat} {s : State} {k : Bytes → State → Proc PhaseOutcome}
    (hk : ∀ r t, (k r t).Quiet t) : (roundTrip v n budget s k).Quiet s :=
  (memWrite_quiet v s).andThen fun ok t => by
    cases ok
    · exact rfl
    · exact (memRead_quiet n budget t).andThen hk

theorem ackTest_quiet (r : Bytes) (s : State) : (ackTest r s).Quiet s := by cases r <;> rfl

theorem prolog_quiet (ab : Byte) (s : State) : (prolog ab s).Quiet s :=
  (roundTrip_quiet ackTest_quiet).of_calls (t := s.setPhase .prolog) rfl

theorem epilog_quiet (s : State) : (epilog s).Quiet s :=
  Proc.Quiet.of_calls (t := s.setPhase .epilog) (roundTrip_quiet fun _ _ => rfl) rfl

theorem writeBytes_quiet (out : Bytes) (s : State) : (writeBytes out s).Quiet s := by
  induction out generalizing s with
  | nil => rfl
  | cons b out ih =>
    exact roundTrip_quiet fun r t => (ackTest_quiet r t).andThen fun o u => by
      cases o with
      | acked d => exact ih u
      | nack => rfl
      | transport => rfl

theorem writePhase_quiet (out : Bytes) (s : State) : (writePhase out s).Quiet s :=
  (writeBytes_quiet out _).of_calls rfl

theorem nextChunk_calls (s : State) : (nextChunk s).2.2.calls = s.calls := by
  unfold nextChunk
  split
  · unfold cachedChunkMid; cases mapGet s.chunkSize.toNat s.chunkCache <;> rfl
  · rfl

theorem readChunks_quiet (fuel : Nat) (s : State) : (readChunks fuel s).Quiet s := by
  induction fuel generalizing s with
  | zero => rfl
  | succ fuel ih =>
    unfold readChunks
    split
    · rfl
    · refine (roundTrip_quiet fun r t => ?_).of_calls (nextChunk_calls s)
      split
      · rfl
      · exact (ih _).of_calls rfl

theorem readPhase_quiet (n : Nat) (s : State) : (readPhase n s).Quiet s := (readChunks_quiet n _).of_calls rfl

theorem ifAcked_quiet {p : Proc PhaseOutcome} {k : State → Proc PhaseOutcome} {s : State} (h : p.Quiet s)
    (hk : ∀ t, (k t).Quiet t) : (ifAcked p k).Quiet s :=
  h.andThen fun o t => by
    cases o with
    | acked d => exact hk t
    | nack => rfl
    | transport => rfl

theorem body_quiet (s : State) : (body s).Quiet s := by
  unfold body
  cases s.txn.op with
  | read => exact ifAcked_quiet (prolog_quiet _ s) fun t => readPhase_quiet _ t
  | write => exact ifAcked_quiet (prolog_quiet _ s) fun t => writePhase_quiet _ t
  | exchange =>
    exact ifAcked_quiet (prolog_quiet _ s) fun t =>
      ifAcked_quiet (writePhase_quiet _ t) fun u => ifAcked_quiet (prolog_quiet _ u) fun v => readPhase_quiet _ v
  | poll => exact prolog_quiet _ s

theorem attemptOnce_quiet (s : State) : (attemptOnce s).Quiet s :=
  (body_quiet s).andThen fun b t => (epilog_quiet t).andThen fun e u => by
    cases attemptOutcome b e <;> rfl

theorem attempts_quiet (budget : Nat) (s : State) : (attempts budget s).Quiet s := by
  have h : ∀ fuel t, (attemptsFuel budget fuel t).Quiet t := by
    intro fuel
    induction fuel with
    | zero => exact fun t => rfl
    | succ fuel ih =>
      refine fun t => (attemptOnce_quiet t).andThen fun o u => ?_
      split
      · exact (ih _).of_calls rfl
      · rfl
  exact (h budget _).of_calls rfl

theorem run_quiet (s : State) : (run s).Quiet s := (attempts_quiet _ s).andThen fun _ _ => rfl

theorem runPoll_quiet (s : State) : (runPoll s).Quiet s := (attempts_quiet _ s).andThen fun _ _ => rfl

theorem configureRun_quiet (f : Freq) (z : Bool) (s : State) : (configureRun f z s).Quiet s :=
  (callConnect_quiet _ s).andThen fun c t => by
    cases c with
    | none => rfl
    | some c =>
      refine (callSetOutputLevels_quiet t).andThen fun _ t => (callSetClockPhaseMode_quiet t).andThen fun _ t =>
        (callSetDriveZeroMode_quiet t).andThen fun w t => ?_
      split
      · exact (callClose_quiet t).andThen fun _ _ => rfl
      · rfl

theorem terminateRun_quiet (s : State) : (terminateRun s).Quiet s := by
  unfold terminateRun
  split
  · exact (callClose_quiet s).andThen fun _ _ => rfl
  · rfl

theorem getSlaveRun_quiet (a : Nat) (s : State) : (getSlaveRun a s).Quiet s := by
  unfold getSlaveRun
  split
  · rfl
  · split <;> rfl

theorem flushRun_quiet (s : State) : (flushRun s).Quiet s := by
  unfold flushRun
  split
  · rfl
  · exact (memWrite_quiet _ s).andThen fun ok t => by cases ok <;> rfl

end Sys2Proof.Machine
end

