-- ==== Sys2Proof/Laws/PerInstr.lean ====
section
/-! SUPPORT. Per-instruction families: one lemma per constructor of `Instr`. -/

namespace Sys2Proof.Laws

namespace FirstByte

/-- The bytes of a well-formed instruction begin with a byte that announces its format (30_encoding.md R90: the
first byte of a unit selects it; the selectors of R91 and R92). -/
def Statement (i : Instr) : Prop :=
  i.wellFormed = true → ∃ b rest, encode i = b :: rest ∧ formatOf b = i.format

theorem configure (f : Freq) (z : Bool) : Statement (.configure f z) := fun _ => ⟨_, _, rfl, rfl⟩

theorem terminate : Statement .terminate := fun _ => ⟨_, _, rfl, rfl⟩

theorem getSlave (a : Nat) : Statement (.getSlave a) := fun _ => ⟨_, _, rfl, rfl⟩

theorem read (a n : Nat) : Statement (.read a n) := fun _ => ⟨_, _, rfl, rfl⟩

theorem write (a : Nat) (b : Bytes) : Statement (.write a b) := fun _ => ⟨_, _, rfl, rfl⟩

theorem exchange (a : Nat) (b : Bytes) (n : Nat) : Statement (.exchange a b n) := fun _ => ⟨_, _, rfl, rfl⟩

theorem poll (a : Nat) : Statement (.poll a) := fun _ => ⟨_, _, rfl, rfl⟩

theorem flushOp : Statement .flushOp := fun _ => ⟨_, _, rfl, rfl⟩

theorem frequency : Statement .frequency := fun _ => ⟨_, _, rfl, rfl⟩

theorem frequencyMax : Statement .frequencyMax := fun _ => ⟨_, _, rfl, rfl⟩

theorem sConfigureRegister (h : Nat) (b : Bool) (w : Nat) : Statement (.sConfigureRegister h b w) := fun _ => ⟨_, _, rfl, rfl⟩

theorem sShiftAddress (h o : Nat) : Statement (.sShiftAddress h o) := fun _ => ⟨_, _, rfl, rfl⟩

theorem sReadFrom (h a n : Nat) : Statement (.sReadFrom h a n) := fun _ => ⟨_, _, rfl, rfl⟩

theorem sWriteTo (h a : Nat) (b : Bytes) : Statement (.sWriteTo h a b) := fun _ => ⟨_, _, rfl, rfl⟩

theorem sRead (h n : Nat) : Statement (.sRead h n) := fun _ => ⟨_, _, rfl, rfl⟩

theorem sWrite (h : Nat) (b : Bytes) : Statement (.sWrite h b) := fun _ => ⟨_, _, rfl, rfl⟩

theorem sExchange (h : Nat) (b : Bytes) (n : Nat) : Statement (.sExchange h b n) := fun _ => ⟨_, _, rfl, rfl⟩

theorem sPoll (h : Nat) : Statement (.sPoll h) := fun _ => ⟨_, _, rfl, rfl⟩

theorem sFlush (h : Nat) : Statement (.sFlush h) := fun _ => ⟨_, _, rfl, rfl⟩

theorem idle (v d : Byte) : Statement (.idle v d) := fun _ => ⟨_, _, rfl, rfl⟩

theorem dataLow (v d : Byte) : Statement (.dataLow v d) := fun _ => ⟨_, _, rfl, rfl⟩

theorem clkDataLow (v d : Byte) : Statement (.clkDataLow v d) := fun _ => ⟨_, _, rfl, rfl⟩

theorem clkLowDataHigh (v d : Byte) : Statement (.clkLowDataHigh v d) := fun _ => ⟨_, _, rfl, rfl⟩

theorem writeByte (b : Byte) : Statement (.writeByte b) := fun _ => ⟨_, _, rfl, rfl⟩

theorem readBit : Statement .readBit := fun _ => ⟨_, _, rfl, rfl⟩

theorem flush : Statement .flush := fun _ => ⟨_, _, rfl, rfl⟩

theorem readByte : Statement .readByte := fun _ => ⟨_, _, rfl, rfl⟩

theorem ack : Statement .ack := fun _ => ⟨_, _, rfl, rfl⟩

theorem nack : Statement .nack := fun _ => ⟨_, _, rfl, rfl⟩

theorem start : Statement .start := fun _ => ⟨_, _, rfl, rfl⟩

theorem stop : Statement .stop := fun _ => ⟨_, _, rfl, rfl⟩

theorem wu (b : Byte) : Statement (.wu b) := fun _ => ⟨_, _, rfl, rfl⟩

theorem ruAck : Statement .ruAck := fun _ => ⟨_, _, rfl, rfl⟩

theorem ruNack : Statement .ruNack := fun _ => ⟨_, _, rfl, rfl⟩

theorem prologCmd (a : BitVec 7) (r : Bool) : Statement (.prologCmd a r) := fun _ => ⟨_, _, rfl, rfl⟩

theorem chunkMid (s : Nat) : Statement (.chunkMid s) := fun h => by
  obtain ⟨k, rfl⟩ : ∃ k, s = k + 1 := ⟨s - 1, by simp [Instr.wellFormed] at h; omega⟩
  exact ⟨_, _, rfl, rfl⟩

theorem chunkLast (s : Nat) : Statement (.chunkLast s) := fun h => by
  obtain ⟨k, rfl⟩ : ∃ k, s = k + 1 := ⟨s - 1, by simp [Instr.wellFormed] at h; omega⟩
  cases k with
  | zero => exact ⟨_, _, rfl, rfl⟩
  | succ k => exact ⟨_, _, rfl, rfl⟩

end FirstByte

end Sys2Proof.Laws
end

