-- ==== Sys2Proof/Laws/Phases.lean ====
section
/-! SUPPORT. What the sequencer can do, said once. Every phase procedure, the attempt and the retry loop are
made of a few primitive updates; a relation between states that is closed under these holds of the whole
procedure, whatever the environment answers. The frames and invariants of the bus operations are instances. -/

namespace Sys2Proof.Machine

/-- The buffers the sequencer sends (41_phases.md R161 to R164). -/
inductive EngineBuffer (s : State) : Bytes → Prop where
  | prolog (ab : Byte) : EngineBuffer s (s.tpl.prologCmd ab)
  | wu (b : Byte) : EngineBuffer s (s.tpl.wu b)
  | stop : EngineBuffer s s.tpl.stop
  | chunkMid (v : Bytes) (h : mapGet s.chunkSize.toNat s.chunkCache = some v) : EngineBuffer s v
  | chunkLast (n : Nat) (h : 1 ≤ n) : EngineBuffer s (s.tpl.chunkLast n)

/-- A relation closed under the primitive updates of the sequencer. -/
structure SequencerClosed (R : State → State → Prop) : Prop where
  refl : ∀ s, R s s
  trans : ∀ {s t u}, R s t → R t u → R s u
  sent : ∀ {s v ok rest}, EngineBuffer s v → s.env.sends = ok :: rest → R s (sent v ok rest s)
  cut : ∀ {s v}, EngineBuffer s v → R s (s.setCe (s.ce.cutShort s.par v))
  received : ∀ {s n budget r rest}, s.env.receives = r :: rest → R s (received n budget (r.take n) rest s)
  phase : ∀ s p, p ≠ .idle → R s (s.setPhase p)
  ackBit : ∀ s b, R s (s.setAckBit b)
  readRegs : ∀ s n d, R s (s.setTxn { s.txn with rem := n, rbuf := d })
  cache : ∀ s, R s (cachedChunkMid s.chunkSize.toNat s).2

/-- A procedure keeps to `R`: where it returns, and, before the call that does not return, where it is stuck. -/
def Proc.Keeps {α : Type} (R : State → State → Prop) (s : State) (r : Proc α) : Prop :=
  r.Ensures (fun _ t => R s t)
    (fun t => ∃ u c, R s u ∧ t = hung c u ∧ ∀ v, c = .sendCommands v → EngineBuffer u v)

variable {R : State → State → Prop}

theorem Proc.Keeps.andThen {α β : Type} (hR : SequencerClosed R) {s : State} {r : Proc α} {k : α → State → Proc β}
    (h : r.Keeps R s) (hk : ∀ a t, R s t → (k a t).Keeps R t) : (r.andThen k).Keeps R s :=
  Proc.Ensures.andThen h fun a t ht =>
    (hk a t ht).mono (fun _ _ hu => hR.trans ht hu)
      fun _ ⟨u, c, hu, e, hb⟩ => ⟨u, c, hR.trans ht hu, e, hb⟩

theorem Proc.Keeps.after {α : Type} (hR : SequencerClosed R) {s t : State} {r : Proc α} (h : R s t)
    (hr : r.Keeps R t) : r.Keeps R s :=
  hr.mono (fun _ _ hu => hR.trans h hu) fun _ ⟨u, c, hu, e, hb⟩ => ⟨u, c, hR.trans h hu, e, hb⟩

theorem EngineBuffer.setCe {s : State} {v : Bytes} (c : CmdEngine) (h : EngineBuffer s v) :
    EngineBuffer (s.setCe c) v := by
  cases h with
  | prolog ab => exact .prolog (s := s.setCe c) ab
  | wu b => exact .wu (s := s.setCe c) b
  | stop => exact .stop (s := s.setCe c)
  | chunkMid _ h => exact .chunkMid (s := s.setCe c) v h
  | chunkLast n h => exact .chunkLast (s := s.setCe c) n h

theorem memWrite_keeps (hR : SequencerClosed R) {s : State} {v : Bytes} (h : EngineBuffer s v) :
    (memWrite v s).Keeps R s := by
  obtain ⟨ok, rest, he, e⟩ | ⟨he, e⟩ := memWrite_cases v s
  · exact (Proc.ensures_of_run_done e).2 (hR.sent h he)
  · exact (Proc.ensures_of_run_stuck e).2 ⟨_, _, hR.cut h, rfl, fun w hw => by cases hw; exact h.setCe _⟩

theorem memRead_keeps (hR : SequencerClosed R) (s : State) (n budget : Nat) :
    (memRead n budget s).Keeps R s := by
  obtain ⟨r, rest, he, e⟩ | ⟨he, e⟩ := memRead_cases n budget s
  · exact (Proc.ensures_of_run_done e).2 (hR.received he)
  · exact (Proc.ensures_of_run_stuck e).2 ⟨s, _, hR.refl s, rfl, fun w hw => by cases hw⟩

theorem roundTrip_keeps (hR : SequencerClosed R) {s : State} {v : Bytes} {n budget : Nat}
    {k : Bytes → State → Proc PhaseOutcome} (h : EngineBuffer s v) (hk : ∀ r t, R s t → (k r t).Keeps R t) :
    (roundTrip v n budget s k).Keeps R s := by
  refine (memWrite_keeps hR h).andThen hR fun ok t ht => ?_
  split
  · exact (memRead_keeps hR t n budget).andThen hR fun r u hu => hk r u (hR.trans ht hu)
  · exact hR.refl t

theorem ackTest_keeps (hR : SequencerClosed R) (r : Bytes) (s : State) : (ackTest r s).Keeps R s := by
  cases r with
  | nil => exact hR.refl s
  | cons b r => exact hR.ackBit s _

theorem prolog_keeps (hR : SequencerClosed R) (ab : Byte) (s : State) : (prolog ab s).Keeps R s :=
  Proc.Keeps.after hR (hR.phase s .prolog (by decide))
    (roundTrip_keeps hR (.prolog (s := s.setPhase .prolog) ab) fun r t _ => ackTest_keeps hR r t)

theorem epilog_keeps (hR : SequencerClosed R) (s : State) : (epilog s).Keeps R s :=
  Proc.Keeps.after hR (hR.phase s .epilog (by decide))
    (roundTrip_keeps hR (.stop (s := s.setPhase .epilog)) fun _ t _ => hR.refl t)

theorem writeBytes_keeps (hR : SequencerClosed R) (out : Bytes) (s : State) : (writeBytes out s).Keeps R s := by
  induction out generalizing s with
  | nil => exact hR.refl s
  | cons b out ih =>
    refine roundTrip_keeps hR (.wu b) fun r t _ => (ackTest_keeps hR r t).andThen hR fun o u _ => ?_
    cases o with
    | acked d => exact ih u
    | nack => exact hR.refl u
    | transport => exact hR.refl u

theorem writePhase_keeps (hR : SequencerClosed R) (out : Bytes) (s : State) : (writePhase out s).Keeps R s :=
  Proc.Keeps.after hR (hR.phase s .payload (by decide)) (writeBytes_keeps hR out _)

/-- A chunk buffer fetched through the cache is in the cache afterwards. -/
theorem cachedChunkMid_hit (k : Nat) (s : State) :
    mapGet k (cachedChunkMid k s).2.chunkCache = some (cachedChunkMid k s).1 := by
  unfold cachedChunkMid
  cases h : mapGet k s.chunkCache <;> simp [h]

@[simp] theorem cachedChunkMid_chunkSize (k : Nat) (s : State) :
    (cachedChunkMid k s).2.chunkSize = s.chunkSize := by
  unfold cachedChunkMid; cases mapGet k s.chunkCache <;> rfl

theorem nextChunk_keeps (hR : SequencerClosed R) (s : State) : R s (nextChunk s).2.2 := by
  unfold nextChunk
  split
  · exact hR.cache s
  · exact hR.refl s

theorem nextChunk_buffer {s : State} (h : s.txn.rem ≠ 0) : EngineBuffer (nextChunk s).2.2 (nextChunk s).2.1 := by
  unfold nextChunk
  split
  · refine .chunkMid _ ?_
    simpa using cachedChunkMid_hit s.chunkSize.toNat s
  · exact .chunkLast _ (Nat.one_le_iff_ne_zero.2 h)

theorem readChunks_keeps (hR : SequencerClosed R) (fuel : Nat) (s : State) : (readChunks fuel s).Keeps R s := by
  induction fuel generalizing s with
  | zero => exact hR.refl s
  | succ fuel ih =>
    unfold readChunks
    split
    · exact hR.refl s
    · next h =>
      refine Proc.Keeps.after hR (nextChunk_keeps hR s) (roundTrip_keeps hR (nextChunk_buffer h) fun r t _ => ?_)
      split
      · exact hR.refl t
      · exact Proc.Keeps.after hR (hR.readRegs t _ _) (ih _)

theorem readPhase_keeps (hR : SequencerClosed R) (n : Nat) (s : State) : (readPhase n s).Keeps R s :=
  Proc.Keeps.after hR (hR.trans (hR.phase s .payload (by decide)) (hR.readRegs (s.setPhase .payload) n []))
    (readChunks_keeps hR n _)

theorem ifAcked_keeps (hR : SequencerClosed R) {s : State} {r : Proc PhaseOutcome} {k : State → Proc PhaseOutcome}
    (h : r.Keeps R s) (hk : ∀ t, R s t → (k t).Keeps R t) : (ifAcked r k).Keeps R s := by
  refine h.andThen hR fun o t ht => ?_
  cases o with
  | acked d => exact hk t ht
  | nack => exact hR.refl t
  | transport => exact hR.refl t

theorem body_keeps (hR : SequencerClosed R) (s : State) : (body s).Keeps R s := by
  unfold body
  cases s.txn.op with
  | read => exact ifAcked_keeps hR (prolog_keeps hR _ s) fun t _ => readPhase_keeps hR _ t
  | write => exact ifAcked_keeps hR (prolog_keeps hR _ s) fun t _ => writePhase_keeps hR _ t
  | exchange =>
    exact ifAcked_keeps hR (prolog_keeps hR _ s) fun t _ =>
      ifAcked_keeps hR (writePhase_keeps hR _ t) fun u _ =>
        ifAcked_keeps hR (prolog_keeps hR _ u) fun v _ => readPhase_keeps hR _ v
  | poll => exact prolog_keeps hR _ s

theorem settleRead_keeps (hR : SequencerClosed R) (o : PhaseOutcome) (s : State) : R s (settleRead o s) := by
  cases o with
  | acked d => exact hR.refl s
  | nack => exact hR.readRegs s s.txn.rem []
  | transport => exact hR.readRegs s s.txn.rem []

/-- One attempt, whatever the environment answers. -/
theorem attemptOnce_keeps (hR : SequencerClosed R) (s : State) : (attemptOnce s).Keeps R s :=
  (body_keeps hR s).andThen hR fun b t _ =>
    (epilog_keeps hR t).andThen hR fun e u _ => settleRead_keeps hR (attemptOutcome b e) u

/-- The retry loop, whatever the environment answers: besides what an attempt does, `ATTEMPT` counts up, within
its bound. -/
theorem attemptsFuel_keeps (hR : SequencerClosed R) {budget : Nat}
    (ha : ∀ s, s.attempt < budget → R s (s.setAttempt (s.attempt + 1))) (fuel : Nat) (s : State) :
    (attemptsFuel budget fuel s).Keeps R s := by
  induction fuel generalizing s with
  | zero => exact hR.refl s
  | succ fuel ih =>
    refine (attemptOnce_keeps hR s).andThen hR fun o t _ => ?_
    split
    · next h => exact Proc.Keeps.after hR (ha t h.2) (ih _)
    · exact hR.refl t

/-- The attempts of an operation, whatever the environment answers: `ATTEMPT` starts at 1 and counts up. -/
theorem attempts_keeps (hR : SequencerClosed R) {budget : Nat}
    (ha : ∀ s, s.attempt < budget → R s (s.setAttempt (s.attempt + 1))) {s : State} (h1 : R s (s.setAttempt 1)) :
    (attempts budget s).Keeps R s :=
  Proc.Keeps.after hR h1 (attemptsFuel_keeps hR ha _ _)

/-! ### The frame of a bus operation -/

/-- What no phase procedure changes: the configuration, the host's side, and the transaction registers other
than `REM` and `RBUF`; the call record only grows. -/
structure BusFrame (s t : State) : Prop where
  config : SameConfiguration s t
  responses : t.responses = s.responses
  pending : t.pending = s.pending
  op : t.txn.op = s.txn.op
  abW : t.txn.abW = s.txn.abW
  abR : t.txn.abR = s.txn.abR
  out : t.txn.out = s.txn.out
  rlen : t.txn.rlen = s.txn.rlen
  calls : s.calls <+: t.calls

theorem busFrame_closed : SequencerClosed BusFrame where
  refl s := ⟨⟨rfl, rfl, rfl, rfl, rfl, rfl, rfl, rfl⟩, rfl, rfl, rfl, rfl, rfl, rfl, rfl, List.prefix_rfl⟩
  trans := by
    rintro s t u ⟨⟨a1, a2, a3, a4, a5, a6, a7, a8⟩, b, c, d, e, f, g, h, i⟩
      ⟨⟨a1', a2', a3', a4', a5', a6', a7', a8'⟩, b', c', d', e', f', g', h', i'⟩
    exact ⟨⟨a1'.trans a1, a2'.trans a2, a3'.trans a3, a4'.trans a4, a5'.trans a5, a6'.trans a6, a7'.trans a7,
        a8'.trans a8⟩,
      b'.trans b, c'.trans c, d'.trans d, e'.trans e, f'.trans f, g'.trans g, h'.trans h, i.trans i'⟩
  sent _ _ := ⟨⟨rfl, rfl, rfl, rfl, rfl, rfl, rfl, rfl⟩, rfl, rfl, rfl, rfl, rfl, rfl, rfl, ⟨_, rfl⟩⟩
  cut _ := ⟨⟨rfl, rfl, rfl, rfl, rfl, rfl, rfl, rfl⟩, rfl, rfl, rfl, rfl, rfl, rfl, rfl, List.prefix_rfl⟩
  received _ := ⟨⟨rfl, rfl, rfl, rfl, rfl, rfl, rfl, rfl⟩, rfl, rfl, rfl, rfl, rfl, rfl, rfl, ⟨_, rfl⟩⟩
  phase _ _ _ := ⟨⟨rfl, rfl, rfl, rfl, rfl, rfl, rfl, rfl⟩, rfl, rfl, rfl, rfl, rfl, rfl, rfl, List.prefix_rfl⟩
  ackBit _ _ := ⟨⟨rfl, rfl, rfl, rfl, rfl, rfl, rfl, rfl⟩, rfl, rfl, rfl, rfl, rfl, rfl, rfl, List.prefix_rfl⟩
  readRegs _ _ _ := ⟨⟨rfl, rfl, rfl, rfl, rfl, rfl, rfl, rfl⟩, rfl, rfl, rfl, rfl, rfl, rfl, rfl, List.prefix_rfl⟩
  cache s := by
    unfold cachedChunkMid
    cases mapGet s.chunkSize.toNat s.chunkCache <;>
      exact ⟨⟨rfl, rfl, rfl, rfl, rfl, rfl, rfl, rfl⟩, rfl, rfl, rfl, rfl, rfl, rfl, rfl, List.prefix_rfl⟩

theorem BusFrame.setAttempt (s : State) (n : Nat) : BusFrame s (s.setAttempt n) :=
  ⟨⟨rfl, rfl, rfl, rfl, rfl, rfl, rfl, rfl⟩, rfl, rfl, rfl, rfl, rfl, rfl, rfl, List.prefix_rfl⟩

/-- `RUN(op)` keeps the frame of a bus operation. -/
theorem run_frame (s : State) : (run s).Keeps BusFrame s :=
  (attempts_keeps busFrame_closed (fun s _ => BusFrame.setAttempt s _) (BusFrame.setAttempt s 1)).andThen
    busFrame_closed fun _ t _ => busFrame_closed.refl t

/-- `RUN_POLL()` keeps the frame of a bus operation. -/
theorem runPoll_frame (s : State) : (runPoll s).Keeps BusFrame s :=
  (attempts_keeps busFrame_closed (fun s _ => BusFrame.setAttempt s _) (BusFrame.setAttempt s 1)).andThen
    busFrame_closed fun _ t _ => busFrame_closed.refl t

end Sys2Proof.Machine
end

