-- ==== Sys2Proof/Tests/Slice0.lean ====
section
/-! SUPPORT. Tests of the model, and a witness for the hypotheses of every obligation. Expected bytes and results
are written out from 95_test_vectors.md (its V and P entries are named) and 30_encoding.md. -/

namespace Sys2Proof.Tests

/- One theorem at a time: many evaluations at once want more threads than the limits allow. -/
set_option Elab.async false

open Sys2Proof Sys2Proof.Machine

/-! ### Helpers -/

/-- Is the outcome a next state? -/
def isNext : Host.Outcome State Fault Refusal → Bool
  | .next _ => true
  | .fault _ | .refused _ => false

/-- The next state, or reset where there is none. -/
def after : Host.Outcome State Fault Refusal → State
  | .next s => s
  | .fault _ | .refused _ => .reset

theorem eq_next_after {o : Host.Outcome State Fault Refusal} (h : isNext o = true) : o = .next (after o) := by
  cases o <;> simp_all [isNext, after]

/-- Is the outcome this refusal? -/
def refusedWith (r : Refusal) : Host.Outcome State Fault Refusal → Bool
  | .refused r' => r == r'
  | .next _ | .fault _ => false

/-- An engine configured with `TX_CAP = 64`, `RX_CAP = 6`, so `CHUNK_SIZE = 4` (V33), and these answers to come. -/
def engine (slaves : List (Nat × Handle)) (sends : List Bool) (receives : List Bytes) : State :=
  { State.reset with
    configured := true
    bus := ⟨Config.pins, 150000, 64, 6⟩
    tpl := buildTemplates Config.params
    chunkSize := 4
    slaves := slaves
    env := ⟨[], [], sends, receives⟩ }

/-- Reset, with the answers of a `configure` to come. -/
def unconfigured (connects : List (Option (Nat × Nat))) (driveZero : List Bool) : State :=
  { State.reset with env := ⟨connects, driveZero, [], []⟩ }

/-- `n` successful sends. -/
abbrev oks (n : Nat) : List Bool := List.replicate n true

/-- What the host and the Command Engine saw: the results, the TX stream and `ATTEMPT`. -/
def seen (o : Host.Outcome State Fault Refusal) : List Result × Bytes × Nat :=
  ((after o).responses, (after o).txStream, (after o).attempt)

/-- V20. -/
def vStart : Bytes :=
  [0x80, 0xFD, 0x03, 0x80, 0xFD, 0x03, 0x80, 0xFD, 0x03, 0x80, 0xFD, 0x03,
   0x80, 0xFC, 0x03, 0x80, 0xFC, 0x03, 0x80, 0xFC, 0x03, 0x80, 0xFC, 0x03]
/-- V21. -/
def vStop : Bytes :=
  [0x80, 0xFC, 0x03, 0x80, 0xFC, 0x03, 0x80, 0xFC, 0x03, 0x80, 0xFC, 0x03,
   0x80, 0xFD, 0x03, 0x80, 0xFD, 0x03, 0x80, 0xFD, 0x03, 0x80, 0xFD, 0x03,
   0x80, 0xFF, 0x03, 0x80, 0xFF, 0x03, 0x80, 0xFF, 0x03, 0x80, 0xFF, 0x03]
/-- V22. -/
def vWu (b : Byte) : Bytes := [0x11, 0x00, 0x00, b, 0x22, 0x00, 0x87]
/-- V23. -/
def vRuAck : Bytes := [0x20, 0x00, 0x00, 0x13, 0x00, 0x00, 0x80, 0xFE, 0x03]
/-- V24. -/
def vRuNack : Bytes := [0x20, 0x00, 0x00, 0x13, 0x00, 0xFF, 0x80, 0xFE, 0x03]
/-- V25, V26. -/
def vProlog (ab : Byte) : Bytes := [0x80, 0xFF, 0x03] ++ vStart ++ vWu ab

/-! ### Ill-formed terms, which the check and the decoder refuse -/

/-- Parameters the spec does not allow: two lines on one pin, a unit that begins another, no closing idle unit. -/
theorem test_params_refused :
    Params.ok { Config.params with pins := { Config.pins with sdaOMask := 0x01 } } = false ∧
    Params.ok { Config.params with enc := { Config.enc with ack := [0x13], nack := [0x13, 0xFF] } } = false ∧
    Params.ok { Config.params with nStopIdle := 0 } = false := by decide
theorem test_wf_idle : (Instr.idle 0xFD 0x03).wellFormed = false ∧ (Instr.idle 0xFE 0x03).wellFormed = false := by
  decide
theorem test_wf_data_low :
    (Instr.dataLow 0xFF 0x03).wellFormed = false ∧ (Instr.dataLow 0xFC 0x03).wellFormed = false := by decide
theorem test_wf_clk_data_low :
    (Instr.clkDataLow 0xFD 0x03).wellFormed = false ∧ (Instr.clkDataLow 0xFE 0x03).wellFormed = false := by decide
theorem test_wf_clk_low_data_high :
    (Instr.clkLowDataHigh 0xFF 0x03).wellFormed = false ∧ (Instr.clkLowDataHigh 0xFC 0x03).wellFormed = false := by
  decide
theorem test_wf_chunks : (Instr.chunkMid 0).wellFormed = false ∧ (Instr.chunkLast 0).wellFormed = false := by decide
theorem test_decode_refuses :
    decode [] = none ∧ decode [0x0A] = none ∧ decode [0x0F, 0x00] = none ∧ decode [0x49, 0x50] = none ∧
    decode [0x12] = none ∧ decode [0x03, 0x50] = none ∧ decode [0x80, 0xFF] = none ∧
    decode [0x87, 0x01] = none ∧ decode [0x13, 0x00, 0x01] = none ∧ decode [0x11, 0x01, 0x00, 0xA0] = none := by
  decide +kernel

/-! ### Decoding words written out from the spec (R91, R92, R96; V10 to V29) -/

theorem test_decode_configure : decode [0x00, 0x05, 0x01, 0x01] = some (.configure ⟨5 / 2, by norm_num⟩ true) := by
  decide +kernel
theorem test_decode_terminate : decode [0x01] = some .terminate := by decide +kernel
theorem test_decode_getSlave : decode [0x02, 0x50] = some (.getSlave 0x50) := by decide +kernel
theorem test_decode_read : decode [0x03, 0x50, 0xAC, 0x02] = some (.read 0x50 300) := by decide +kernel
theorem test_decode_write : decode [0x04, 0x50, 0x02, 0x10, 0xAB] = some (.write 0x50 [0x10, 0xAB]) := by
  decide +kernel
theorem test_decode_exchange : decode [0x05, 0x50, 0x01, 0x04, 0x01] = some (.exchange 0x50 [0x04] 1) := by
  decide +kernel
theorem test_decode_poll : decode [0x06, 0x80, 0x01] = some (.poll 0x80) := by decide +kernel
theorem test_decode_flushOp : decode [0x07] = some .flushOp := by decide +kernel
theorem test_decode_frequency : decode [0x08] = some .frequency := by decide +kernel
theorem test_decode_frequencyMax : decode [0x09] = some .frequencyMax := by decide +kernel
theorem test_decode_sConfigureRegister : decode [0x40, 0x50, 0x01, 0x02] = some (.sConfigureRegister 0x50 true 2) := by
  decide +kernel
theorem test_decode_sShiftAddress : decode [0x41, 0x50, 0x03] = some (.sShiftAddress 0x50 3) := by decide +kernel
theorem test_decode_sReadFrom : decode [0x42, 0x50, 0x04, 0x01] = some (.sReadFrom 0x50 4 1) := by decide +kernel
theorem test_decode_sWriteTo :
    decode [0x43, 0x50, 0x82, 0x02, 0x01, 0xAA] = some (.sWriteTo 0x50 0x0102 [0xAA]) := by decide +kernel
theorem test_decode_sRead : decode [0x44, 0x50, 0x02] = some (.sRead 0x50 2) := by decide +kernel
theorem test_decode_sWrite : decode [0x45, 0x50, 0x01, 0x10] = some (.sWrite 0x50 [0x10]) := by decide +kernel
theorem test_decode_sExchange : decode [0x46, 0x50, 0x01, 0x04, 0x01] = some (.sExchange 0x50 [0x04] 1) := by
  decide +kernel
theorem test_decode_sPoll : decode [0x47, 0x50] = some (.sPoll 0x50) := by decide +kernel
theorem test_decode_sFlush : decode [0x48, 0x50] = some (.sFlush 0x50) := by decide +kernel
theorem test_decode_idle : decode [0x80, 0xFF, 0x03] = some (.idle 0xFF 0x03) := by decide +kernel
theorem test_decode_dataLow : decode [0x80, 0xFD, 0x03] = some (.dataLow 0xFD 0x03) := by decide +kernel
theorem test_decode_clkDataLow : decode [0x80, 0xFC, 0x03] = some (.clkDataLow 0xFC 0x03) := by decide +kernel
theorem test_decode_clkLowDataHigh : decode [0x80, 0xFE, 0x03] = some (.clkLowDataHigh 0xFE 0x03) := by
  decide +kernel
theorem test_decode_writeByte : decode [0x11, 0x00, 0x00, 0xA0] = some (.writeByte 0xA0) := by decide +kernel
theorem test_decode_readBit : decode [0x22, 0x00] = some .readBit := by decide +kernel
theorem test_decode_flush : decode [0x87] = some .flush := by decide +kernel
theorem test_decode_readByte : decode [0x20, 0x00, 0x00] = some .readByte := by decide +kernel
theorem test_decode_ack : decode [0x13, 0x00, 0x00] = some .ack := by decide +kernel
theorem test_decode_nack : decode [0x13, 0x00, 0xFF] = some .nack := by decide +kernel
theorem test_decode_start : decode vStart = some .start := by decide +kernel
theorem test_decode_stop : decode vStop = some .stop := by decide +kernel
theorem test_decode_wu : decode (vWu 0xA0) = some (.wu 0xA0) := by decide +kernel
theorem test_decode_ruAck : decode vRuAck = some .ruAck := by decide +kernel
theorem test_decode_ruNack : decode vRuNack = some .ruNack := by decide +kernel
theorem test_decode_prologCmd :
    decode (vProlog 0xA0) = some (.prologCmd 0x50 false) ∧ decode (vProlog 0xA1) = some (.prologCmd 0x50 true) := by
  decide +kernel
theorem test_decode_chunkMid : decode (vRuAck ++ vRuAck ++ vRuAck ++ vRuAck) = some (.chunkMid 4) := by
  decide +kernel
theorem test_decode_chunkLast :
    decode (vRuNack ++ [0x87]) = some (.chunkLast 1) ∧ decode (vRuAck ++ vRuNack ++ [0x87]) = some (.chunkLast 2) := by
  decide +kernel
/-- The table's own number for a long row: `RU_NACK`. -/
theorem test_decode_table_word : decodeTableWord 72 0x2000001300FF80FE03 = some .ruNack := by decide +kernel

/-! ### The builder (V1 to V9, V10 to V30, V31 to V38) -/

theorem test_address_byte :
    [addressByte 0 false, addressByte 0 true, addressByte 0x50 false, addressByte 0x50 true, addressByte 0x7F false,
      addressByte 0x7F true, addressByte 0x3C false, addressByte 0x40 true] =
    [0x00, 0x01, 0xA0, 0xA1, 0xFE, 0xFF, 0x78, 0x81] := by decide
theorem test_templates :
    (buildTemplates Config.params).start = vStart ∧ (buildTemplates Config.params).stop = vStop ∧
    (buildTemplates Config.params).ruAck = vRuAck ∧ (buildTemplates Config.params).ruNack = vRuNack ∧
    (buildTemplates Config.params).prologCmd 0xA1 = vProlog 0xA1 := by decide
/-- Parameters with the pins of V30. -/
def otherPins : Params := { Config.params with pins := ⟨0x10, 0x20, 0x40, 0xFB, 0x30⟩ }
/-- V30. -/
theorem test_templates_other_pins :
    (buildTemplates otherPins).idle = [0x80, 0xFB, 0x30] ∧
    (buildTemplates otherPins).dataLow = [0x80, 0xDB, 0x30] ∧
    (buildTemplates otherPins).clkDataLow = [0x80, 0xCB, 0x30] ∧
    (buildTemplates otherPins).clkLowDataHigh = [0x80, 0xEB, 0x30] := by decide
/-- An `ENC` of another form: each pin set a byte of its own, operands in the other order or in a row of their own. -/
def otherEnc : Params := { Config.params with
  enc := ⟨⟨[.byte 0x01, .direction, .value], []⟩, ⟨[.value, .direction], [((0xFD, 0x03), [0x02])]⟩, ⟨[.byte 0x03, .value], []⟩,
    ⟨[.byte 0x04], []⟩, [0x05], [0x06], [0x07], [0x08, 0x00], [0x08, 0x01], [0x09]⟩ }
/-- R96, D7: the rules hold for it, and a buffer is read back as its units. -/
theorem test_other_enc :
    otherEnc.Ok ∧ (buildTemplates otherEnc).idle = [0x01, 0x03, 0xFF] ∧
    (buildTemplates otherEnc).start = [0x02, 0x02, 0x02, 0x02, 0x03, 0xFC, 0x03, 0xFC, 0x03, 0xFC, 0x03, 0xFC] ∧
    pinSetBytes otherEnc.enc.dataLow 0xFC 0x03 = [0xFC, 0x03] ∧
    unitsOf otherEnc [0x05, 0x05, 0x07, 0x08, 0x01, 0x04, 0x09] =
      [.writeByte 0x05, .readByte, .nack, .clkLowDataHigh, .flush] := by decide +kernel
/-- D16: a `CE_CLOCK` that is not the identity. -/
theorem test_clock :
    achievedClock 150 (.listed [(150, 120)]) = 120 ∧ achievedClock 151 (.listed [(150, 120)]) = 151 := by decide +kernel
theorem test_chunk_size :
    [(1024, 512), (128, 256), (64, 6), (90, 100), (8, 512), (1024, 2), (1024, 1), (9, 3)].map
      (fun c => chunkSizeOf (buildTemplates Config.params) c.1 c.2) = [113, 14, 4, 10, 0, 0, -1, 1] := by decide
/-- V47. -/
theorem test_chunk_plan : chunkSizes 113 300 = [113, 113, 74] ∧ chunkSizes 4 8 = [4, 4] := by decide

/-! ### Management operations -/

/-- V80. -/
theorem test_configure :
    let t := after (exec (.configure 100000 false) (unconfigured [some (1024, 512)] [true]))
    t.configured = true ∧ t.bus.freq = 150000 ∧ t.chunkSize = 113 ∧
      t.calls.map CallRecord.call = [.connect 150000 0xFF 0x03, .setOutputLevels 0xFF 0x03, .setClockPhaseMode true,
        .setDriveZeroMode 0x07] ∧
      t.responses = [.ok (.freq 150000)] := by decide +kernel
/-- V81. -/
theorem test_configure_no_drive_zero :
    let t := after (exec (.configure 400000 true) (unconfigured [some (1024, 512)] [false]))
    t.configured = false ∧ t.calls.length = 5 ∧ (t.calls.getLast?.map CallRecord.call) = some .close ∧
      t.responses.map Result.status = [1] := by decide +kernel
/-- V87. -/
theorem test_terminate :
    let t := after (exec .terminate (engine [] [] []))
    t.configured = false ∧ t.calls.map CallRecord.call = [.close] ∧ t.responses = [.ok .none] := by decide
/-- V88. -/
theorem test_terminate_unconfigured : (after (exec .terminate .reset)).calls = [] := by decide
/-- V91. -/
theorem test_getSlave : (after (exec (.getSlave 0x50) (engine [] [] []))).slaves = [(0x50, ⟨0x50, 0, 1, false⟩)] := by
  decide
/-- V90. -/
theorem test_getSlave_address :
    (after (exec (.getSlave 0x80) (engine [] [] []))).responses = [.err .configurationError] := by decide
/-- V92. -/
theorem test_flushOp : seen (exec .flushOp (engine [] (oks 1) [])) = ([.ok .none], [0x87], 0) := by decide
/-- V93. -/
theorem test_flushOp_unconfigured :
    seen (exec .flushOp .reset) = ([.err .configurationError], [], 0) := by decide
/-- V85, V86. -/
theorem test_frequency :
    (after (exec .frequency .reset)).responses = [.ok (.freq 0)] ∧
    (after (exec .frequency (engine [] [] []))).responses = [.ok (.freq 150000)] := by decide +kernel
theorem test_frequencyMax : (after (exec .frequencyMax .reset)).responses = [.ok (.freq Config.freqMax)] := rfl

/-- V87 with V80: `terminate` then `configure` on an engine with stale reply bytes (R269, R313). -/
theorem test_terminate_then_configure :
    let s := { engine [] [] [] with
      ce := ⟨false, true, 0, 0, [1], [2], [], 0⟩, env := ⟨[some (1024, 512)], [true], [], []⟩ }
    let t := after (execAll [.terminate, .configure 100000 false] s)
    t.configured = true ∧ t.ce.outstanding = 0 ∧ t.BusIdle := by decide +kernel
/-- The calls made after `n` steps of the engine (R6), or none where there is no such step. -/
def callsAfter (n : Nat) : Option Operation → Option Nat
  | some (.running p) => (p.engineSteps n).map fun q => q.state.calls.length
  | some (.refused _) | none => none
/-- R6: `flush` is one step of the engine, one call; a poll is four. -/
theorem test_engine_steps :
    [0, 1, 2].map (fun n => callsAfter n (operationOf .flushOp (engine [] (oks 1) []))) = [some 0, some 1, none] ∧
    [3, 4, 5].map (fun n => callsAfter n (operationOf (.poll 0x50) (engine [] (oks 2) [[0], [0]]))) =
      [some 3, some 4, none] := by decide +kernel

/-! ### Bus operations -/

/-- P12. -/
theorem test_read :
    seen (exec (.read 0x50 2) (engine [] (oks 3) [[0x00], [0x12, 0x34], [0x00]])) =
      ([.ok (.bytes [0x12, 0x34])], vProlog 0xA1 ++ vRuAck ++ vRuNack ++ [0x87] ++ vStop, 1) := by decide +kernel
/-- P3: the middle buffer is cached, the sizes requested are 4, 4, 2. -/
theorem test_read_chunked :
    let t := after (exec (.read 0x50 10) (engine [] (oks 5) [[0x00], [1, 2, 3, 4], [5, 6, 7, 8], [9, 10], [0x00]]))
    t.responses = [.ok (.bytes [1, 2, 3, 4, 5, 6, 7, 8, 9, 10])] ∧ t.txStream.length = 161 ∧
      t.chunkCache = [(4, vRuAck ++ vRuAck ++ vRuAck ++ vRuAck)] ∧
      t.calls.filterMap (fun r => match r.call with | .receiveBytes n _ => some n | _ => none) = [1, 4, 4, 2, 1] := by
  decide +kernel
/-- P7: a short chunk. -/
theorem test_read_short_chunk :
    let t := after (exec (.read 0x50 10) (engine [] (oks 5) [[0x00], [1, 2, 3, 4], [5, 6], [0x00]]))
    t.responses = [.err .transportError] ∧ t.attempt = 1 ∧ t.calls.length = 8 ∧ t.txn.rbuf = [] := by decide +kernel
/-- P6: the second payload byte refused once. -/
theorem test_write_retried :
    seen (exec (.write 0x50 [0x10, 0xAB])
        (engine [] (oks 8) [[0x00], [0x00], [0x01], [0xFF], [0x00], [0x00], [0x00], [0x00]])) =
      ([.ok .none], vProlog 0xA0 ++ vWu 0x10 ++ vWu 0xAB ++ vStop ++ vProlog 0xA0 ++ vWu 0x10 ++ vWu 0xAB ++ vStop, 2) := by
  decide +kernel
/-- P10: the epilog's send fails. -/
theorem test_write_epilog_fails :
    let t := after (exec (.write 0x50 [0x10]) (engine [] [true, true, false] [[0x00], [0x00]]))
    t.responses = [.err .transportError] ∧ t.attempt = 1 ∧ t.calls.length = 5 := by decide +kernel
/-- P9: the second prolog refused once. -/
theorem test_exchange_retried :
    let o := exec (.exchange 0x50 [0x04] 1)
      (engine [] (oks 9) [[0x00], [0x00], [0x01], [0x00], [0x00], [0x00], [0x00], [0x5A], [0x00]])
    seen o = ([.ok (.bytes [0x5A])], vProlog 0xA0 ++ vWu 0x04 ++ vProlog 0xA1 ++ vStop ++ vProlog 0xA0 ++ vWu 0x04 ++
      vProlog 0xA1 ++ vRuNack ++ [0x87] ++ vStop, 2) ∧ (seen o).2.1.length = 232 := by decide +kernel
/-- V70, V67. -/
theorem test_exchange_bound :
    seen (exec (.exchange 0x50 [0x04] 21845) .reset) = ([.err .payloadTooLarge], [], 0) ∧
    validateExchange 0x50 [0x04] 21844 (engine [] [] []) = none := by decide +kernel
/-- P5. -/
theorem test_poll :
    seen (exec (.poll 0x50) (engine [] (oks 2) [[0x01], [0x00]])) = ([.ok (.bool false)], vProlog 0xA1 ++ vStop, 1) ∧
    (after (exec (.poll 0x50) (engine [] (oks 2) [[0xFE], [0x00]]))).responses = [.ok (.bool true)] := by
  decide +kernel

/-! ### Slave Handle operations -/

/-- The handle of `getSlave(0x50)`, as created. -/
def h50 : List (Nat × Handle) := [(0x50, ⟨0x50, 0, 1, false⟩)]

/-- V100, V101. -/
theorem test_sConfigureRegister :
    (after (exec (.sConfigureRegister 0x50 true 2) (engine h50 [] []))).slaves = [(0x50, ⟨0x50, 0, 2, true⟩)] ∧
    (after (exec (.sConfigureRegister 0x50 false 3) (engine h50 [] []))).slaves = h50 := by decide
/-- V112, V114. -/
theorem test_sShiftAddress :
    (after (exec (.sShiftAddress 0x50 1) (engine [(0x50, ⟨0x50, 3, 1, false⟩)] [] []))).slaves =
      [(0x50, ⟨0x50, 1, 1, false⟩)] ∧
    (after (exec (.sShiftAddress 0x50 0x30) (engine h50 [] []))).responses = [.err .configurationError] := by decide
/-- V115 with program P2. -/
theorem test_sReadFrom :
    seen (exec (.sReadFrom 0x50 0x04 1) (engine h50 (oks 5) [[0x00], [0x00], [0x00], [0x00], [0x00]])) =
      ([.ok (.bytes [0x00])], vProlog 0xA0 ++ vWu 0x04 ++ vProlog 0xA1 ++ vRuNack ++ [0x87] ++ vStop, 1) := by
  decide +kernel
/-- S6: big-endian, width 2. -/
theorem test_sWriteTo :
    (after (exec (.sWriteTo 0x50 0x0102 [0xAA])
        (engine [(0x50, ⟨0x50, 0, 2, true⟩)] (oks 5) [[0], [0], [0], [0], [0]]))).txStream =
      vProlog 0xA0 ++ vWu 0x01 ++ vWu 0x02 ++ vWu 0xAA ++ vStop := by decide +kernel
/-- V110. -/
theorem test_sWriteTo_too_wide :
    refusedWith .registerAddressTooWide (exec (.sWriteTo 0x50 0x100 [0xAA]) (engine h50 [] [])) = true := by
  decide
/-- V105 to V109. -/
theorem test_regEnc :
    regEnc ⟨0, 0, 4, true⟩ 0x01020304 = some [0x01, 0x02, 0x03, 0x04] ∧
    regEnc ⟨0, 0, 4, false⟩ 0x01020304 = some [0x04, 0x03, 0x02, 0x01] ∧
    regEnc ⟨0, 0, 2, true⟩ 0x0004 = some [0x00, 0x04] ∧ regEnc ⟨0, 0, 2, false⟩ 0x0102 = some [0x02, 0x01] := by
  decide
theorem test_sRead :
    seen (exec (.sRead 0x50 1) (engine [(0x50, ⟨0x50, 1, 1, false⟩)] (oks 3) [[0], [7], [0]])) =
      ([.ok (.bytes [7])], vProlog 0xA3 ++ vRuNack ++ [0x87] ++ vStop, 1) := by decide +kernel
/-- V111. -/
theorem test_sWrite :
    seen (exec (.sWrite 0x50 [0x10]) (engine [(0x50, ⟨0x50, 3, 1, false⟩)] (oks 3) [[0], [0], [0]])) =
      ([.ok .none], vProlog 0xA6 ++ vWu 0x10 ++ vStop, 1) := by decide +kernel
theorem test_sExchange :
    (after (exec (.sExchange 0x50 [0x04] 1) (engine h50 (oks 5) [[0], [0], [0], [9], [0]]))).responses =
      [.ok (.bytes [9])] := by decide +kernel
theorem test_sPoll :
    seen (exec (.sPoll 0x50) (engine h50 (oks 2) [[0x01], []])) = ([.ok (.bool false)], vProlog 0xA1 ++ vStop, 1) := by
  decide +kernel
theorem test_sFlush : seen (exec (.sFlush 0x50) (engine h50 (oks 1) [])) = ([.ok .none], [0x87], 0) := by decide

/-! ### Units and templates (40_command_builder.md R131 to R146) -/

/-- What a unit did to the lines and the reply buffer: SCL, SDA, new wire events, bytes held, bytes ready. -/
def wireOf (i : Instr) : List WireEvent := (after (exec i .reset)).ce.wire

theorem test_idle :
    (after (exec (.idle 0xFF 0x03) .reset)).BusIdle ∧ wireOf (.idle 0xFF 0x03) = [.pins true true] := by decide
theorem test_dataLow : wireOf (.dataLow 0xFD 0x03) = [.pins true false] := by decide
theorem test_clkDataLow : wireOf (.clkDataLow 0xFC 0x03) = [.pins false false] := by decide
theorem test_clkLowDataHigh : wireOf (.clkLowDataHigh 0xFE 0x03) = [.pins false true] := by decide
theorem test_writeByte :
    wireOf (.writeByte 0xA1) = [true, false, true, false, false, false, false, true].map .masterBit := by decide
theorem test_readBit :
    (after (exec .readBit .reset)).ce.outstanding = 1 ∧ (wireOf .readBit).length = 1 := by decide
theorem test_flush :
    (after (exec .flush { State.reset with ce := ⟨true, true, 0, 0, [2, 3], [1], [], 0⟩ })).ce =
      ⟨true, true, 0, 0, [], [1, 2, 3], [], 0⟩ := by decide
theorem test_readByte :
    (after (exec .readByte .reset)).ce.outstanding = 1 ∧ (wireOf .readByte).length = 8 := by decide
theorem test_ack : wireOf .ack = [.masterBit false] ∧ (after (exec .ack .reset)).ce.outstanding = 0 := by decide
theorem test_nack : wireOf .nack = [.masterBit true] ∧ (after (exec .nack .reset)).ce.outstanding = 0 := by decide
theorem test_start :
    wireOf .start = [.pins true false, .pins true false, .pins true false, .pins true false,
      .pins false false, .pins false false, .pins false false, .pins false false] := by decide
theorem test_stop :
    (after (exec .stop .reset)).BusIdle ∧ (after (exec .stop .reset)).ce.outstanding = 1 := by decide
theorem test_wu :
    (wireOf (.wu 0x04)).length = 9 ∧ (after (exec (.wu 0x04) .reset)).ce.ready.length = 1 := by decide
theorem test_ruAck : (wireOf .ruAck).drop 8 = [.masterBit false, .pins false true] := by decide
theorem test_ruNack : (wireOf .ruNack).drop 8 = [.masterBit true, .pins false true] := by decide
theorem test_prologCmd :
    ((wireOf (.prologCmd 0x50 true)).drop 9).take 8 =
      [true, false, true, false, false, false, false, true].map .masterBit := by decide
theorem test_chunkMid :
    (after (exec (.chunkMid 3) .reset)).ce.held.length = 3 ∧ (after (exec (.chunkMid 3) .reset)).ce.ready = [] := by
  decide
theorem test_chunkLast :
    (after (exec (.chunkLast 3) .reset)).ce.ready.length = 3 ∧ (after (exec (.chunkLast 3) .reset)).ce.held = [] := by
  decide

/-! ### Witnesses: hypotheses of the obligations met together -/

/-- An engine with a request to come. -/
def withRequest (request : Bytes) (s : State) : State := { s with requests := [request] }

theorem test_witness_EveryStepKeepsTheInvariant :
    let s := withRequest [0x06, 0x50] (engine h50 (oks 2) [[0], [0]])
    s.Inv ∧ step s = .next (after (step s)) := ⟨by decide, eq_next_after (by decide +kernel)⟩
theorem test_witness_EveryBufferSentIsUnits :
    let s := withRequest [0x06, 0x50] (engine h50 (oks 2) [[0], [0]])
    s.Inv ∧ s.SendsUnits ∧ step s = .next (after (step s)) :=
  ⟨by decide, fun _ h => absurd h List.not_mem_nil, eq_next_after (by decide +kernel)⟩
theorem test_witness_StepRunsTheDecodedInstruction :
    (State.setPending (some .close) .reset).pending = some .close ∧
    (State.reset.pending = none ∧ State.reset.requests = []) ∧
    ((withRequest [0x07] .reset).pending = none ∧ (withRequest [0x07] .reset).requests = [0x07] :: [] ∧
      decode [0x07] = some .flushOp) ∧
    decode [0x0A] = none := by decide +kernel
theorem test_witness_FetchWordIsRunNext : decodeTableWord 8 0x01 = some .terminate := by decide +kernel
theorem test_witness_DecodeInvertsEncode :
    (Instr.chunkMid 2).wellFormed = true ∧ Instr.chunkMid 2 ≠ .chunkMid 1 := by decide
theorem test_witness_CommandBytesHaveOneMeaning :
    Instr.flush.format = .command ∧ decode [0x87, 0x00] = some .flush := by decide +kernel
theorem test_witness_CommandsActOnTheCommandEngineAlone : (Instr.chunkLast 4).format = .command := rfl
theorem test_witness_PinSetsDriveTheLines :
    State.reset.par.pins.Ok ∧ State.reset.par.pins = Config.pins ∧ (Instr.idle 0xFF 0x03).wellFormed = true ∧ (Instr.dataLow 0xFD 0x03).wellFormed = true ∧
    (Instr.clkDataLow 0xFC 0x03).wellFormed = true ∧ (Instr.clkLowDataHigh 0xFE 0x03).wellFormed = true := by decide
/-- For TemplatesAreTheirExpansions, StartAndStopMoveTheLines, WriteUnitAndPrologOnTheBus, ReadUnitsOnTheBus,
ChunksReadUnitAfterUnit and BuilderFollowsThePins: parameters the spec allows, a chunk of one unit, the default `ENC`. -/
theorem test_witness_units :
    State.reset.par.Ok ∧ otherPins.Ok ∧ 1 ≤ 1 ∧ otherPins.enc = Config.enc := by decide
theorem test_witness_ConfigureEstablishes :
    (unconfigured [] []).par.Ok ∧ ((unconfigured [some (1024, 512)] [true]).free ∧
      (unconfigured [some (1024, 512)] [true]).env.connects = some (1024, 512) :: [] ∧
      (unconfigured [some (1024, 512)] [true]).env.driveZero = true :: [] ∧ (true = true ∨ true = false)) ∧
    ((unconfigured [some (8, 1)] [false]).free ∧
      (unconfigured [some (8, 1)] [false]).env.connects = some (8, 1) :: [] ∧
      (unconfigured [some (8, 1)] [false]).env.driveZero = false :: [] ∧ (false = true ∨ false = false)) := by decide
theorem test_witness_ConfigureFailuresUnconfigure :
    ((unconfigured [none] []).free ∧ (unconfigured [none] []).env.connects = none :: []) ∧
    ((unconfigured [some (64, 6)] [false]).free ∧
      (unconfigured [some (64, 6)] [false]).env.connects = some (64, 6) :: [] ∧
      (unconfigured [some (64, 6)] [false]).env.driveZero = false :: [] ∧
      (unconfigured [some (64, 6)] [false]).par.Ok) := by decide
theorem test_witness_TerminateUnconfigures :
    ((engine h50 [] []).free ∧ (engine h50 [] []).configured = true) ∧
    (State.reset.free ∧ State.reset.configured = false) := by decide
theorem test_witness_TerminateThenConfigureIsClean :
    let s := { engine h50 [] [] with env := ⟨[some (64, 6)], [true], [], []⟩ }
    s.par.Ok ∧ s.free ∧ s.configured = true ∧ s.env.connects = some (64, 6) :: [] ∧ s.env.driveZero = true :: [] ∧
      (true = true ∨ true = false) := by decide
/-- A write that runs to its end, a write whose send does not return, a read that is refused. -/
theorem test_witness_OperationsRunOneCallAtATime :
    (∃ p, operationOf (.write 0x50 [0x10]) (engine [] (oks 3) [[0], [0], [0]]) = some (.running p)) ∧
    (∃ p, operationOf (.write 0x50 [0x10]) (engine [] [] []) = some (.running p)) ∧
    operationOf (.read 0x50 1) (State.setChunkSize 0 (engine [] [] [])) = some (.refused .chunkSizeNotPositive) :=
  ⟨⟨_, rfl⟩, ⟨_, rfl⟩, rfl⟩
theorem test_witness_GetSlaveFindsOrCreates :
    ((engine h50 [] []).free ∧ (engine h50 [] []).SlavesOk ∧ Config.addrMax < 0x80) ∧
    (State.reset.free ∧ State.reset.SlavesOk ∧ State.reset.configured = false) ∧
    (0x7F ≤ Config.addrMax ∧ (engine h50 [] []).configured = true ∧ mapGet 0x7F (engine h50 [] []).slaves = none) ∧
    mapGet 0x50 (engine h50 [] []).slaves = some ⟨0x50, 0, 1, false⟩ := by decide
theorem test_witness_GetSlaveIsIdempotent :
    let s := engine [] [] []
    let t := after (exec (.getSlave 0x7F) s)
    let i := Instr.sConfigureRegister 0x7F true 4
    let u := after (exec i t)
    s.SlavesOk ∧ 0x7F ≤ Config.addrMax ∧ s.configured = true ∧ exec (.getSlave 0x7F) s = .next t ∧
      i ≠ .terminate ∧ (∀ f z, i ≠ .configure f z) ∧ exec i t = .next u ∧ u.free :=
  ⟨by decide, by decide, by decide, eq_next_after (by decide), by decide, fun _ _ h => Instr.noConfusion h,
    eq_next_after (by decide), by decide⟩
theorem test_witness_FlushSendsOneUnit :
    (State.reset.free ∧ State.reset.configured = false) ∧
    ((engine [] [true] []).free ∧ (engine [] [true] []).configured = true ∧
      (engine [] [true] []).env.sends = true :: [] ∧ (engine [] [true] []).par.Ok ∧ (engine [] [true] []).ConfigOk) ∧
    ((engine [] [false] []).free ∧ (engine [] [false] []).env.sends = false :: []) := by decide
theorem test_witness_FrequenciesAreRead : State.reset.free := by decide
theorem test_witness_ConfigureRegisterSetsTheFormat :
    (engine h50 [] []).free ∧ mapGet 0x50 (engine h50 [] []).slaves = some ⟨0x50, 0, 1, false⟩ ∧
    (4 = 1 ∨ 4 = 2 ∨ 4 = 4) ∧ ¬(3 = 1 ∨ 3 = 2 ∨ 3 = 4) ∧ ¬(0 = 1 ∨ 0 = 2 ∨ 0 = 4) := by decide
theorem test_witness_ShiftAddressReplacesTheOffset :
    (engine h50 [] []).free ∧ mapGet 0x50 (engine h50 [] []).slaves = some ⟨0x50, 0, 1, false⟩ ∧
    0x50 + 0x2F ≤ 0x7F ∧ 0x7F < 0x50 + 0x30 := by decide
theorem test_witness_HandleOperationsForward :
    mapGet 0x50 (engine h50 [] []).slaves = some ⟨0x50, 0, 1, false⟩ := by decide
theorem test_witness_RegisterAccessPrependsThePrefix :
    (mapGet 0x50 (engine h50 [] []).slaves = some ⟨0x50, 0, 1, false⟩ ∧ regEnc ⟨0x50, 0, 1, false⟩ 0xFF = some [0xFF] ∧
      1 ∈ Config.regWidths) ∧
    (mapGet 0x51 [(0x51, (⟨0x51, 0, 2, true⟩ : Handle))] = some ⟨0x51, 0, 2, true⟩ ∧
      regEnc ⟨0x51, 0, 2, true⟩ 0x0102 = some [0x01, 0x02]) ∧
    (mapGet 0x51 [(0x51, (⟨0x51, 0, 2, false⟩ : Handle))] = some ⟨0x51, 0, 2, false⟩ ∧
      regEnc ⟨0x51, 0, 2, false⟩ 0x0102 = some [0x02, 0x01]) := by decide
theorem test_witness_RegisterPrefixHoldsTheAddress : 0xFFFFFFFF < 2 ^ (8 * (⟨0x50, 0, 4, true⟩ : Handle).regWidth) := by
  decide
theorem test_witness_HandleRefusals :
    (State.reset.free ∧ mapGet 0x50 State.reset.slaves = none) ∧
    ((engine h50 [] []).free ∧ mapGet 0x50 (engine h50 [] []).slaves = some ⟨0x50, 0, 1, false⟩ ∧
      2 ^ (8 * (⟨0x50, 0, 1, false⟩ : Handle).regWidth) ≤ 0x100) := by decide
theorem test_witness_ValidationInOrder :
    State.reset.free ∧ State.reset.configured = false ∧ 0x7F < 0x80 ∧ 0x7F ≤ 0x7F ∧ 21844 < 21845 ∧ 21844 ≤ 21844 ∧
      ([0x04] : Bytes) ≠ [] ∧ 1 ≠ 0 := by decide
theorem test_witness_WriteCompletes :
    WriteScript (engine [] (oks 4) [[0xFE], [0], [0], []]) 0x7F [0x10, 0xAB] 0xFE [0, 0] [] := by decide +kernel
theorem test_witness_HandleWritesComplete :
    mapGet 0x50 h50 = some ⟨0x50, 0, 1, false⟩ ∧
    WriteScript (engine h50 (oks 3) [[0], [0], [0]]) (⟨0x50, 0, 1, false⟩ : Handle).ea [0x10] 0 [0] [0] ∧
    regEnc ⟨0x50, 0, 1, false⟩ 0x10 = some [0x10] ∧
    WriteScript (engine h50 (oks 3) [[0], [0], [0]]) (⟨0x50, 0, 1, false⟩ : Handle).ea ([0x10] ++ []) 0 [0] [0] :=
  ⟨by decide, by decide +kernel, by decide, by decide +kernel⟩
theorem test_witness_ReadCompletes :
    ReadScript (engine [] (oks 3) [[0], [1, 2, 3, 4], [0]]) 0x50 4 0 [[1, 2, 3, 4]] [0] ∧
    ReadScript (engine [] (oks 4) [[0], [1, 2, 3, 4], [5], [0]]) 0x50 5 0 [[1, 2, 3, 4], [5]] [0] :=
  ⟨by decide +kernel, by decide +kernel⟩
theorem test_witness_ExchangeCompletes :
    ExchangeScript (engine [] (oks 5) [[0], [0], [0], [0x5A], [0]]) 0x50 [0x04] 1 0 [0] 0 [[0x5A]] [0] := by
  decide +kernel
theorem test_witness_HandleReadsComplete :
    mapGet 0x50 h50 = some ⟨0x50, 0, 1, false⟩ ∧
    ReadScript (engine h50 (oks 3) [[0], [1], [0]]) (⟨0x50, 0, 1, false⟩ : Handle).ea 1 0 [[1]] [0] ∧
    regEnc ⟨0x50, 0, 1, false⟩ 0x04 = some [0x04] ∧
    ExchangeScript (engine h50 (oks 5) [[0], [0], [0], [0x5A], [0]]) (⟨0x50, 0, 1, false⟩ : Handle).ea [0x04] 1 0 [0] 0
      [[0x5A]] [0] :=
  ⟨by decide, by decide +kernel, by decide, by decide +kernel⟩
theorem test_witness_PollAnswersPresence :
    ((engine [] (oks 2) [[0x01], []]).Ready ∧ 0x7F ≤ Config.addrMax ∧
      (engine [] (oks 2) [[0x01], []]).Answers [true, true] [[0x01], []]) ∧
    ((engine [] (oks 2) [[0xFE], [0]]).Ready ∧ (engine [] (oks 2) [[0xFE], [0]]).Answers [true, true] [[0xFE], [0]]) := by
  decide +kernel
theorem test_witness_HandlePollAndFlushComplete :
    mapGet 0x50 (engine h50 (oks 2) [[0x01], [0]]).slaves = some ⟨0x50, 0, 1, false⟩ ∧
    (engine h50 (oks 2) [[0x01], [0]]).Ready ∧ (engine h50 (oks 2) [[0x01], [0]]).Answers [true, true] [[0x01], [0]] ∧
    (engine h50 (oks 2) [[0x01], [0]]).env.sends = true :: [true] := by decide +kernel
theorem test_witness_AbsentSlaveIsTriedThreeTimes :
    let s := engine [] (oks 6) [[0x01], [0], [0xFF], [], [0x03], [0]]
    s.Ready ∧ 0x50 ≤ Config.addrMax ∧ ([0x10] : Bytes) ≠ [] ∧ 1 ≤ 1 ∧ ackBitOf 0x01 = true ∧ ackBitOf 0xFF = true ∧
      ackBitOf 0x03 = true ∧ s.Answers (List.replicate 6 true) [[0x01], [0], [0xFF], [], [0x03], [0]] ∧
      1 ≤ s.chunkSize ∧ 1 ≤ Config.maxXchgRlen := by decide +kernel
theorem test_witness_FirstPrologTransportFailure :
    ((engine [] [false, true] [[0]]).Ready ∧ 0x50 ≤ Config.addrMax ∧ ([0x10] : Bytes) ≠ [] ∧ 1 ≤ 1 ∧
      (engine [] [false, true] [[0]]).Answers [false, true] [[0]] ∧ 1 ≤ (engine [] [false, true] [[0]]).chunkSize) ∧
    ((engine [] [true, true] [[], [0]]).Ready ∧
      (engine [] [true, true] [[], [0]]).Answers [true, true] [[], [0]]) := by decide +kernel

/-- A poll that comes back, a poll that does not, and their next states. -/
theorem test_witness_BusOperationFrame :
    (Instr.poll 0x50).isBusOp = true ∧
    exec (.poll 0x50) (engine [] (oks 2) [[0], [0]]) = .next (after (exec (.poll 0x50) (engine [] (oks 2) [[0], [0]]))) :=
  ⟨rfl, eq_next_after (by decide +kernel)⟩
theorem test_witness_OnlyTheNamedOperationsConfigure :
    exec (.getSlave 0x51) (engine h50 [] []) = .next (after (exec (.getSlave 0x51) (engine h50 [] []))) ∧
    (∀ f z, Instr.getSlave 0x51 ≠ .configure f z) ∧ mapGet 0x50 (engine h50 [] []).slaves = some ⟨0x50, 0, 1, false⟩ ∧
    mapGet 0x51 (engine h50 [] []).slaves = none ∧
    mapGet 0x51 (after (exec (.getSlave 0x51) (engine h50 [] []))).slaves ≠ none :=
  ⟨eq_next_after (by decide), fun _ _ h => Instr.noConfusion h, by decide, by decide, by decide⟩
theorem test_witness_OneResultOrStuck :
    (Instr.poll 0x50).format ≠ .command ∧
    exec (.poll 0x50) (engine [] (oks 2) [[0], [0]]) = .next (after (exec (.poll 0x50) (engine [] (oks 2) [[0], [0]]))) ∧
    exec (.poll 0x50) (engine [] [] []) = .next (after (exec (.poll 0x50) (engine [] [] []))) ∧
    (after (exec (.poll 0x50) (engine [] [] []))).pending ≠ none :=
  ⟨by decide, eq_next_after (by decide +kernel), eq_next_after (by decide +kernel), by decide +kernel⟩

/-- A write refused once and then acknowledged. -/
def retried : State := engine [] (oks 5) [[0x01], [0], [0], [0], [0]]

/-- For PhasesFollowTheTransitions, EveryAttemptEndsWithOneStop and the first clause of OnlyRefusalsAreRetried. -/
theorem test_witness_retried :
    let t := after (exec (.write 0x50 [0x10]) retried)
    (Instr.write 0x50 [0x10]).isBusOp = true ∧ exec (.write 0x50 [0x10]) retried = .next t ∧
      t.calls = retried.calls ++ t.calls ∧ t.pending = none ∧ t.calls ≠ [] ∧ 1 ≤ 1 ∧ 1 < t.attempt :=
  ⟨rfl, eq_next_after (by decide +kernel), rfl, by decide +kernel, by decide +kernel, by decide, by decide +kernel⟩
/-- The second clause of OnlyRefusalsAreRetried: a prolog without a reply. -/
theorem test_witness_OnlyRefusalsAreRetried :
    let s := engine [] (oks 2) [[], [0]]
    let t := after (exec (.write 0x50 [0x10]) s)
    (Instr.write 0x50 [0x10]).isBusOp = true ∧ exec (.write 0x50 [0x10]) s = .next t ∧ t.pending = none ∧
      t.calls = s.calls ++ t.calls ∧ ⟨.receiveBytes 1 4, .prolog, 1, .bytes []⟩ ∈ t.calls ∧
      CallRecord.transportFailure ⟨.receiveBytes 1 4, .prolog, 1, .bytes []⟩ :=
  ⟨rfl, eq_next_after (by decide +kernel), by decide +kernel, rfl, by decide +kernel, by decide, by decide⟩
theorem test_witness_BusIsIdleAfterAnOperation :
    let t := after (exec (.write 0x50 [0x10]) retried)
    retried.Inv ∧ retried.configured = true ∧ (Instr.write 0x50 [0x10]).isBusOp = true ∧
      exec (.write 0x50 [0x10]) retried = .next t ∧ t.calls ≠ retried.calls ∧
      t.responses = retried.responses ++ [.ok .none] ∧ Result.ok .none ≠ .err .transportError :=
  ⟨by decide, rfl, rfl, eq_next_after (by decide +kernel), by decide +kernel, by decide +kernel, by decide⟩
theorem test_witness_AttemptsAndCallsAreBounded :
    let s := engine [] (oks 5) [[0], [0], [0], [0], [0]]
    (exec (.read 0x50 1) s = .next (after (exec (.read 0x50 1) s)) ∧ (after (exec (.read 0x50 1) s)).calls ≠ []) ∧
    (exec (.write 0x50 [1]) s = .next (after (exec (.write 0x50 [1]) s)) ∧
      (after (exec (.write 0x50 [1]) s)).calls ≠ []) ∧
    (exec (.exchange 0x50 [1] 1) s = .next (after (exec (.exchange 0x50 [1] 1) s)) ∧
      (after (exec (.exchange 0x50 [1] 1) s)).calls ≠ []) ∧
    (exec (.poll 0x50) s = .next (after (exec (.poll 0x50) s)) ∧ (after (exec (.poll 0x50) s)).calls ≠ []) ∧
    s.calls = [] ∧ 1 ≤ s.chunkSize :=
  ⟨⟨eq_next_after (by decide +kernel), by decide +kernel⟩, ⟨eq_next_after (by decide +kernel), by decide +kernel⟩,
    ⟨eq_next_after (by decide +kernel), by decide +kernel⟩, ⟨eq_next_after (by decide +kernel), by decide +kernel⟩,
    rfl, by decide⟩
theorem test_witness_NegativeAcknowledgementTakesThreeRefusals :
    let s := engine [] (oks 6) [[0x01], [0], [0xFF], [], [0x03], [0]]
    let t := after (exec (.read 0x50 1) s)
    exec (.read 0x50 1) s = .next t ∧ t.calls = s.calls ++ t.calls ∧ s.par.errEmpty ≠ .negativeAcknowledgement ∧
      t.responses = s.responses ++ [.err .negativeAcknowledgement] :=
  ⟨eq_next_after (by decide +kernel), rfl, by decide, by decide +kernel⟩
/-- The send and the receive of a byte. -/
def byteCalls (v : Bytes) (p : Phase) (k : Nat) (b : Byte) : List CallRecord :=
  [⟨.sendCommands v, p, k, .ok⟩, ⟨.receiveBytes 1 4, p, k, .bytes [b]⟩]
/-- Its second half: the last payload byte refused, then the second prolog of the next attempt, then the first. -/
theorem test_witness_NegativeAcknowledgement_refused_bytes :
    let s := engine [] (oks 9) [[0], [0x01], [0], [0], [0], [0xFF], [0], [0x03], [0]]
    let t := after (exec (.exchange 0x50 [0x10] 1) s)
    s.Inv ∧ exec (.exchange 0x50 [0x10] 1) s = .next t ∧ t.pending = none ∧
      t.responses = [.err .negativeAcknowledgement] ∧
      (t.calls.drop 2).take 2 = byteCalls (s.tpl.wu 0x10) .payload 1 0x01 ∧
      (t.calls.drop 10).take 2 = byteCalls (s.tpl.prologCmd 0xA1) .prolog 2 0xFF ∧
      (t.calls.drop 14).take 2 = byteCalls (s.tpl.prologCmd 0xA0) .prolog 3 0x03 :=
  ⟨by decide, eq_next_after (by decide +kernel), by decide +kernel, by decide +kernel, by decide +kernel,
    by decide +kernel, by decide +kernel⟩
/-- Such two calls are those of a refused byte. -/
theorem test_witness_RefusedByte :
    let s := engine [] [] []
    RefusedByte s.par s.tpl ⟨.sendCommands (s.tpl.wu 0x10), .payload, 1, .ok⟩ ⟨.receiveBytes 1 4, .payload, 1, .bytes [0x01]⟩ ∧
    RefusedByte s.par s.tpl ⟨.sendCommands (s.tpl.prologCmd 0xA1), .prolog, 2, .ok⟩
      ⟨.receiveBytes 1 4, .prolog, 2, .bytes [0xFF]⟩ :=
  ⟨⟨0x10, 0x01, by decide, rfl, .inr ⟨rfl, rfl⟩, rfl⟩, ⟨0xA1, 0xFF, by decide, rfl, .inl ⟨rfl, rfl⟩, rfl⟩⟩
theorem test_witness_PayloadTooLargeIsTheExchangeBound :
    (State.reset.par.errEmpty ≠ .payloadTooLarge ∧ exec (.exchange 0x50 [0x04] 21845) .reset = .next (after (exec (.exchange 0x50 [0x04] 21845) .reset)) ∧
      (after (exec (.exchange 0x50 [0x04] 21845) .reset)).responses =
        State.reset.responses ++ [.err .payloadTooLarge]) ∧
    (State.reset.free ∧ 0x7F ≤ Config.addrMax ∧ ([0x04] : Bytes) ≠ [] ∧ 21844 < 21845) ∧
    ((engine h50 [] []).free ∧ (engine h50 [] []).SlavesOk ∧
      mapGet 0x50 (engine h50 [] []).slaves = some ⟨0x50, 0, 1, false⟩ ∧
      regEnc ⟨0x50, 0, 1, false⟩ 0x04 = some [0x04]) :=
  ⟨⟨by decide, eq_next_after (by decide +kernel), by decide +kernel⟩, by decide, by decide⟩
theorem test_witness_ReadsAreAllOrNothing :
    let s := engine [] (oks 5) [[0], [7], [0]]
    exec (.read 0x50 1) s = .next (after (exec (.read 0x50 1) s)) ∧
      (after (exec (.read 0x50 1) s)).responses = s.responses ++ [.ok (.bytes [7])] :=
  ⟨eq_next_after (by decide +kernel), by decide +kernel⟩
/-- Its second half: a short second chunk. -/
theorem test_witness_ReadsAreAllOrNothing_error :
    let s := engine [] (oks 4) [[0], [1, 2, 3, 4], [], [0]]
    let t := after (exec (.read 0x50 5) s)
    (Instr.read 0x50 5).isBusOp = true ∧ exec (.read 0x50 5) s = .next t ∧ t.calls ≠ s.calls ∧
      t.responses = s.responses ++ [.err .transportError] :=
  ⟨rfl, eq_next_after (by decide +kernel), by decide +kernel, by decide +kernel⟩
theorem test_witness_BusyEngineRefuses :
    (Instr.frequency).format ≠ .command ∧ ¬(State.setPhase .prolog .reset).free ∧
      ¬(State.setPending (some .close) .reset).free := by decide
theorem test_witness_StalledSendSticksTheEngine :
    (engine [] [] []).Ready ∧ 0x7F ≤ Config.addrMax ∧ ([0x10] : Bytes) ≠ [] ∧ 1 ≤ 1 ∧
      (engine [] [] []).env.sends = [] ∧ 1 ≤ (engine [] [] []).chunkSize ∧ 21844 ≤ Config.maxXchgRlen := by decide
theorem test_witness_NoChunkSizeNoRead :
    let s := State.setChunkSize 0 (engine [] [] [])
    s.free ∧ s.configured = true ∧ 0x7F ≤ Config.addrMax ∧ 1 ≤ 1 ∧ s.chunkSize ≤ 0 ∧ ([0x04] : Bytes) ≠ [] ∧
      1 ≤ Config.maxXchgRlen := by decide
theorem test_witness_ExchangeIsOneBusTransaction :
    let s := engine [] (oks 5) [[0], [0], [0], [0x5A], [0]]
    ExchangeScript s 0x50 [0x04] 1 0 [0] 0 [[0x5A]] [0] ∧
      exec (.exchange 0x50 [0x04] 1) s = .next (after (exec (.exchange 0x50 [0x04] 1) s)) :=
  ⟨by decide +kernel, eq_next_after (by decide +kernel)⟩

end Sys2Proof.Tests
end

section
/-! PROOFS. The scope family (spec/00_scope.md): a step runs the decoded request (R11), a host operation runs one
Command Engine call at a time (R6), and every step keeps the invariant (R7). -/

namespace Sys2Proof.Machine

/-! ### What `step`, `exec` and `operationOf` are, case by case -/

theorem step_of_pending {s : State} {c : Call} (h : s.pending = some c) : step s = .fault .callNeverReturned := by
  simp [step, h]

theorem step_of_no_request {s : State} (hp : s.pending = none) (hr : s.requests = []) : step s = .next s := by
  simp [step, fetch, hp, hr]

theorem step_of_request {s : State} {request : Bytes} {rest : List Bytes} (hp : s.pending = none)
    (hr : s.requests = request :: rest) {i : Instr} (hd : decode request = some i) :
    step s = exec i (s.setRequests rest) := by
  simp [step, fetch, hp, hr, hd]

theorem step_of_illegal {s : State} {request : Bytes} {rest : List Bytes} (hp : s.pending = none)
    (hr : s.requests = request :: rest) (hd : decode request = none) : step s = .refused .illegalRequest := by
  simp [step, fetch, hp, hr, hd]

/-- A step that answers a next state is idle, or runs an instruction on the state with its request taken. -/
theorem step_next {s t : State} (h : step s = .next t) :
    t = s ∨ ∃ i rest, exec i (s.setRequests rest) = .next t := by
  cases hp : s.pending with
  | some c => rw [step_of_pending hp] at h; cases h
  | none =>
    cases hr : s.requests with
    | nil => rw [step_of_no_request hp hr] at h; cases h; exact .inl rfl
    | cons request rest =>
      cases hd : decode request with
      | none => rw [step_of_illegal hp hr hd] at h; cases h
      | some i => rw [step_of_request hp hr hd] at h; exact .inr ⟨i, rest, h⟩

theorem operationOf_eq_none_iff (i : Instr) (s : State) : operationOf i s = none ↔ i.format = .command := by
  cases i <;> simp [operationOf, Instr.format]

/-- A unit or template changes the Command Engine and nothing else (40_command_builder.md R147). -/
theorem exec_of_command {i : Instr} (h : i.format = .command) (s : State) : ∃ c, exec i s = .next (s.setCe c) := by
  cases i <;> cases h <;> exact ⟨_, rfl⟩

/-- `exec` is the outcome of the operation a host request starts. -/
theorem exec_of_operation {i : Instr} {s : State} {o : Operation} (h : operationOf i s = some o) :
    exec i s = o.outcome := by
  cases i <;> cases h <;> rfl

/-! ### What a host request starts -/

/-- The procedures a host request can start in `s`, said once for every operation. -/
inductive Started (s : State) : Proc Result → Prop where
  /-- It ends before any call, with no register written. -/
  | atOnce (r : Result) : Started s (.done r s)
  /-- It ends before any call, and has written a handle back, well formed if it was (44_slave_handle.md R241, R242). -/
  | handle (r : Result) {key : Nat} {old new : Handle} (found : mapGet key s.slaves = some old)
      (ok : old.Ok key → new.Ok key) : Started s (.done r (putHandle key new s))
  | configure (f : Freq) (z : Bool) : Started s (configureRun f z s)
  | terminate : Started s (terminateRun s)
  | getSlave (a : Nat) : Started s (getSlaveRun a s)
  | flush : Started s (flushRun s)
  /-- `read`, `write` or `exchange`, the transaction registers written (10_state.md R28). -/
  | transaction (x : Transaction) : Started s (run (s.setTxn x))
  | poll (x : Transaction) : Started s (runPoll (s.setTxn x))

/-- The operation is refused, or runs a procedure that has `P`. -/
def Operation.Runs (P : Proc Result → Prop) : Operation → Prop
  | .running p => P p
  | .refused _ => True

section Runs

variable {P : Proc Result → Prop} {s : State} {k : Operation}

theorem whenFree_runs (h : k.Runs P) : (whenFree s k).Runs P := by
  unfold whenFree
  split
  · exact h
  · trivial

theorem validated_runs (e : Option ErrKind) (hd : ∀ r, P (.done r s)) (h : k.Runs P) : (validated e s k).Runs P := by
  cases e with
  | none => exact h
  | some kind => exact hd (.err kind)

theorem needsChunks_runs (h : k.Runs P) : (needsChunks s k).Runs P := by
  unfold needsChunks
  split
  · exact h
  · trivial

theorem withHandle_runs {key : Nat} {f : Handle → Operation}
    (h : ∀ old, mapGet key s.slaves = some old → (f old).Runs P) : (withHandle key s f).Runs P := by
  refine whenFree_runs ?_
  cases hg : mapGet key s.slaves with
  | none => trivial
  | some old => exact h old hg

theorem withPrefix_runs {h : Handle} {a : Nat} {f : Bytes → Operation} (hf : ∀ p, (f p).Runs P) :
    (withPrefix h a f).Runs P := by
  unfold withPrefix
  split
  · exact hf _
  · trivial

end Runs

section Operations

variable (s : State)

theorem readOp_runs (a n : Nat) : (readOp a n s).Runs (Started s) :=
  whenFree_runs (validated_runs _ .atOnce (needsChunks_runs (.transaction _)))

theorem writeOp_runs (a : Nat) (out : Bytes) : (writeOp a out s).Runs (Started s) :=
  whenFree_runs (validated_runs _ .atOnce (.transaction _))

theorem exchangeOp_runs (a : Nat) (out : Bytes) (n : Nat) : (exchangeOp a out n s).Runs (Started s) :=
  whenFree_runs (validated_runs _ .atOnce (needsChunks_runs (.transaction _)))

theorem pollOp_runs (a : Nat) : (pollOp a s).Runs (Started s) :=
  whenFree_runs (validated_runs _ .atOnce (.poll _))

theorem flushHostOp_runs : (flushHostOp s).Runs (Started s) := whenFree_runs .flush

theorem sConfigureRegisterOp_runs (key : Nat) (big : Bool) (width : Nat) :
    (sConfigureRegisterOp key big width s).Runs (Started s) :=
  withHandle_runs fun old found => by
    split
    · next hw => exact .handle _ found fun ⟨hbase, hea, _⟩ => ⟨hbase, hea, hw⟩
    · exact .atOnce _

theorem sShiftAddressOp_runs (key offset : Nat) : (sShiftAddressOp key offset s).Runs (Started s) :=
  withHandle_runs fun old found => by
    split
    · next hle => exact .handle _ found fun ⟨hbase, _, hw⟩ => ⟨hbase, hle, hw⟩
    · exact .atOnce _

end Operations

/-- Whatever a host request starts is one of the procedures of `Started`. -/
theorem operationOf_runs {i : Instr} {s : State} {o : Operation} (h : operationOf i s = some o) :
    o.Runs (Started s) := by
  cases i <;> cases h
  case configure f z => exact whenFree_runs (.configure f z)
  case terminate => exact whenFree_runs .terminate
  case getSlave a => exact whenFree_runs (.getSlave a)
  case read a n => exact readOp_runs s a n
  case write a out => exact writeOp_runs s a out
  case exchange a out n => exact exchangeOp_runs s a out n
  case poll a => exact pollOp_runs s a
  case flushOp => exact flushHostOp_runs s
  case frequency => exact whenFree_runs (.atOnce _)
  case frequencyMax => exact whenFree_runs (.atOnce _)
  case sConfigureRegister key big width => exact sConfigureRegisterOp_runs s key big width
  case sShiftAddress key offset => exact sShiftAddressOp_runs s key offset
  case sReadFrom key a n => exact withHandle_runs fun h _ => withPrefix_runs fun p => exchangeOp_runs s h.ea p n
  case sWriteTo key a out => exact withHandle_runs fun h _ => withPrefix_runs fun p => writeOp_runs s h.ea (p ++ out)
  case sRead key n => exact withHandle_runs fun h _ => readOp_runs s h.ea n
  case sWrite key out => exact withHandle_runs fun h _ => writeOp_runs s h.ea out
  case sExchange key out n => exact withHandle_runs fun h _ => exchangeOp_runs s h.ea out n
  case sPoll key => exact withHandle_runs fun h _ => pollOp_runs s h.ea
  case sFlush key => exact withHandle_runs fun _ _ => flushHostOp_runs s

/-! ### The block's registers between two calls -/

/-- What holds of the registers at every moment of a host operation, not only between operations: the invariant
without `PHASE`. -/
def State.RegistersOk (s : State) : Prop :=
  s.par.Ok ∧ s.attempt ≤ Config.attemptsMax ∧ s.SlavesOk ∧ s.ConfigOk ∧ s.CacheOk

theorem State.inv_iff (s : State) : s.Inv ↔ s.RegistersOk ∧ (s.pending = none → s.phase = .idle) := by
  unfold State.RegistersOk
  constructor
  · rintro ⟨hpar, ⟨hphase, hattempt⟩, hslaves, hconfig, hcache⟩
    exact ⟨⟨hpar, hattempt, hslaves, hconfig, hcache⟩, hphase⟩
  · rintro ⟨⟨hpar, hattempt, hslaves, hconfig, hcache⟩, hphase⟩
    exact ⟨hpar, ⟨hphase, hattempt⟩, hslaves, hconfig, hcache⟩

/-- An operation that ends leaves the sequencer at rest. -/
theorem State.RegistersOk.inv_ended {s : State} (h : s.RegistersOk) (r : Result) :
    ((s.setPhase .idle).respond r).Inv := (State.inv_iff _).2 ⟨h, fun _ => rfl⟩

/-- A call that does not return leaves the sequencer where it was, with the operation in progress. -/
theorem State.RegistersOk.inv_hung {s : State} (h : s.RegistersOk) (c : Call) : (hung c s).Inv :=
  (State.inv_iff _).2 ⟨h, nofun⟩

/-- Writing a well-formed handle keeps `SLAVES` well formed (10_state.md R30). -/
theorem State.RegistersOk.putHandle {s : State} (h : s.RegistersOk) {key : Nat} {new : Handle} (hn : new.Ok key) :
    (putHandle key new s).RegistersOk := by
  obtain ⟨hpar, hattempt, ⟨hwf, hall⟩, hconfig, hcache⟩ := h
  refine ⟨hpar, hattempt, ⟨mapPut_wf key new hwf, fun e he => ?_⟩, hconfig, hcache⟩
  rcases mem_mapPut he with rfl | he
  · exact hn
  · exact hall e he

theorem State.RegistersOk.handle_ok {s : State} (h : s.RegistersOk) {key : Nat} {old : Handle}
    (found : mapGet key s.slaves = some old) : old.Ok key := by
  obtain ⟨-, -, ⟨-, hall⟩, -, -⟩ := h
  exact hall _ (mem_of_mapGet found)

theorem State.RegistersOk.unconfigured {s : State} (h : s.RegistersOk) : (s.setConfigured false).RegistersOk := by
  obtain ⟨hpar, hattempt, hslaves, -, hcache⟩ := h
  exact ⟨hpar, hattempt, hslaves, nofun, hcache⟩

theorem State.RegistersOk.establish {s : State} (h : s.RegistersOk) (f : Freq) (tx rx : Nat) :
    (establish f tx rx s).RegistersOk := by
  obtain ⟨hpar, hattempt, hslaves, -, -⟩ := h
  exact ⟨hpar, hattempt, hslaves, fun _ => ⟨rfl, rfl, rfl⟩, .inl rfl⟩

theorem State.RegistersOk.setAttempt {s : State} (h : s.RegistersOk) {n : Nat} (hn : n ≤ Config.attemptsMax) :
    (s.setAttempt n).RegistersOk := by
  obtain ⟨hpar, -, hslaves, hconfig, hcache⟩ := h
  exact ⟨hpar, hn, hslaves, hconfig, hcache⟩

/-- A chunk buffer is fetched through an empty cache, which then holds it, or through the cache that holds it
(41_phases.md R166). -/
theorem State.RegistersOk.after_cachedChunkMid {s : State} (h : s.RegistersOk) :
    (cachedChunkMid s.chunkSize.toNat s).2.RegistersOk := by
  obtain ⟨hpar, hattempt, hslaves, hconfig, hcache⟩ := h
  rcases hcache with hempty | hone
  · have hmiss : cachedChunkMid s.chunkSize.toNat s =
        (s.tpl.chunkMid s.chunkSize.toNat,
          s.setCache [(s.chunkSize.toNat, s.tpl.chunkMid s.chunkSize.toNat)]) := by
      simp [cachedChunkMid, hempty, mapPut]
    rw [hmiss]
    exact ⟨hpar, hattempt, hslaves, hconfig, .inr rfl⟩
  · have hhit : (cachedChunkMid s.chunkSize.toNat s).2 = s := by
      simp [cachedChunkMid, hone, mapGet]
    rw [hhit]
    exact ⟨hpar, hattempt, hslaves, hconfig, .inr hone⟩

/-- The sequencer keeps the registers well formed. -/
theorem registersOk_closed : SequencerClosed fun s t => s.RegistersOk → t.RegistersOk where
  refl _ := id
  trans hst htu := htu ∘ hst
  sent _ _ := id
  cut _ := id
  received _ := id
  phase _ _ _ := id
  ackBit _ _ := id
  readRegs _ _ _ := id
  cache _ h := h.after_cachedChunkMid

/-! ### Procedures that keep the invariant -/

/-- Where the procedure returns the registers are well formed, and where it is stuck the invariant holds. -/
def Proc.Safe {α : Type} (p : Proc α) : Prop := p.Ensures (fun _ t => t.RegistersOk) State.Inv

theorem Proc.Safe.andThen {α β : Type} {p : Proc α} {f : α → State → Proc β} (h : p.Safe)
    (hf : ∀ a t, t.RegistersOk → (f a t).Safe) : (p.andThen f).Safe :=
  Proc.Ensures.andThen h hf

/-- One call, and nothing after its answer. -/
theorem Proc.safe_call {α : Type} {s : State} (h : s.RegistersOk) (c : Call) (f : Answer → α) :
    (Proc.call c s fun a t => .done (f a) t).Safe := by
  cases hp : perform c s with
  | none =>
    have hrun : (Proc.call c s fun a t => .done (f a) t).run = .stuck (hang c s) := by simp [Proc.run, hp]
    exact (Proc.ensures_of_run_stuck hrun).2 (State.RegistersOk.inv_hung (s := s.setCe _) h c)
  | some r =>
    obtain ⟨a, t⟩ := r
    have hrun : (Proc.call c s fun a t => .done (f a) t).run = .done (f a) t := by simp [Proc.run, hp]
    obtain ⟨-, ht⟩ := perform_frame hp
    exact (Proc.ensures_of_run_done hrun).2 (ht ▸ h)

theorem Proc.Keeps.safe {α : Type} {s : State} {p : Proc α}
    (h : p.Keeps (fun s t => s.RegistersOk → t.RegistersOk) s) (hs : s.RegistersOk) : p.Safe :=
  h.mono (fun _ _ ht => ht hs) fun _ ⟨_, c, hu, e, _⟩ => e ▸ (hu hs).inv_hung c

theorem attempts_safe {s : State} (h : s.RegistersOk) {budget : Nat} (hb : budget ≤ Config.attemptsMax) :
    (attempts budget s).Safe := by
  refine Proc.Keeps.safe (attempts_keeps registersOk_closed (fun t ht hok => ?_) fun hok => ?_) h
  · exact hok.setAttempt (Nat.le_trans ht hb)
  · exact hok.setAttempt (by decide)

theorem run_safe {s : State} (h : s.RegistersOk) : (run s).Safe :=
  (attempts_safe h le_rfl).andThen fun _ _ ht => ht

theorem runPoll_safe {s : State} (h : s.RegistersOk) : (runPoll s).Safe :=
  (attempts_safe h (by decide)).andThen fun _ _ ht => ht

theorem configureRun_safe (f : Freq) (z : Bool) {s : State} (h : s.RegistersOk) : (configureRun f z s).Safe :=
  (Proc.safe_call h _ _).andThen fun c t ht => by
    cases c with
    | none => exact ht.unconfigured
    | some caps =>
      refine (Proc.safe_call ht _ _).andThen fun _ t ht => (Proc.safe_call ht _ _).andThen fun _ t ht =>
        (Proc.safe_call ht _ _).andThen fun w t ht => ?_
      split
      · exact (Proc.safe_call ht _ _).andThen fun _ t ht => ht.unconfigured
      · exact ht.establish _ _ _

theorem terminateRun_safe {s : State} (h : s.RegistersOk) : (terminateRun s).Safe := by
  unfold terminateRun
  split
  · refine (Proc.safe_call h _ _).andThen fun _ t ht => ?_
    obtain ⟨hpar, hattempt, hslaves, -, -⟩ := ht
    exact ⟨hpar, hattempt, hslaves, nofun, .inl rfl⟩
  · exact h

/-- The handle `getSlave` creates for a valid address is well formed (43_management.md R222). -/
theorem Handle.fresh_ok {a : Nat} (h : a ≤ Config.addrMax) : (Handle.fresh a).Ok a :=
  ⟨rfl, h, List.mem_cons_self⟩

theorem le_addrMax_of_firstError {a : Nat} {rest : List (Bool × ErrKind)}
    (h : firstError (addressCheck a :: rest) = none) : a ≤ Config.addrMax := by
  by_contra hlt
  simp [firstError, addressCheck, hlt] at h

theorem getSlaveRun_safe (a : Nat) {s : State} (h : s.RegistersOk) : (getSlaveRun a s).Safe := by
  unfold getSlaveRun
  split
  · exact h
  · next hvalid =>
    split
    · exact h
    · exact h.putHandle (Handle.fresh_ok (le_addrMax_of_firstError hvalid))

theorem flushRun_safe {s : State} (h : s.RegistersOk) : (flushRun s).Safe := by
  unfold flushRun
  split
  · exact h
  · refine (Proc.safe_call h _ _).andThen fun ok t ht => ?_
    split <;> exact ht

/-- Every procedure a host request can start keeps the registers well formed. -/
theorem Started.safe {s : State} {p : Proc Result} (h : Started s p) (hs : s.RegistersOk) : p.Safe := by
  cases h with
  | atOnce r => exact hs
  | handle r found ok => exact hs.putHandle (ok (hs.handle_ok found))
  | configure f z => exact configureRun_safe f z hs
  | terminate => exact terminateRun_safe hs
  | getSlave a => exact getSlaveRun_safe a hs
  | flush => exact flushRun_safe hs
  | transaction x => exact run_safe (s := s.setTxn x) hs
  | poll x => exact runPoll_safe (s := s.setTxn x) hs

theorem Proc.Safe.inv_of_outcome {p : Proc Result} (h : p.Safe) {t : State} (ht : p.run.outcome = .next t) :
    t.Inv := by
  rcases Run.outcome_next ht with ⟨r, u, hu, rfl⟩ | hstuck
  · exact ((Proc.ensures_of_run_done hu).1 h : u.RegistersOk).inv_ended r
  · exact (Proc.ensures_of_run_stuck hstuck).1 h

/-- Every instruction keeps the invariant. -/
theorem exec_keeps_inv {i : Instr} {s t : State} (hs : s.Inv) (h : exec i s = .next t) : t.Inv := by
  cases ho : operationOf i s with
  | none =>
    obtain ⟨c, hc⟩ := exec_of_command ((operationOf_eq_none_iff i s).1 ho) s
    cases hc.symm.trans h
    exact hs
  | some o =>
    have hruns := operationOf_runs ho
    rw [exec_of_operation ho] at h
    cases o with
    | refused r => cases h
    | running p => exact ((hruns : Started s p).safe ((State.inv_iff s).1 hs).1).inv_of_outcome h

/-! ### The steps of the engine -/

/-- Every procedure a host request can start makes no record of its own. -/
theorem Started.quiet {s : State} {p : Proc Result} (h : Started s p) : p.Quiet s := by
  cases h with
  | atOnce r => rfl
  | handle r found ok => rfl
  | configure f z => exact configureRun_quiet f z s
  | terminate => exact terminateRun_quiet s
  | getSlave a => exact getSlaveRun_quiet a s
  | flush => exact flushRun_quiet s
  | transaction x => exact (run_quiet _).of_calls (t := s.setTxn x) rfl
  | poll x => exact (runPoll_quiet _).of_calls (t := s.setTxn x) rfl

/-- `n` steps of the engine add `n` records, and leave a quiet procedure. -/
theorem Proc.Quiet.steps {α : Type} {p q : Proc α} {s : State} {n : Nat} (h : p.Quiet s)
    (hq : p.engineSteps n = some q) : ∃ t, q.Quiet t ∧ q.state.calls.length = s.calls.length + n := by
  induction n generalizing p s with
  | zero =>
    obtain rfl : p = q := Option.some.inj hq
    exact ⟨s, h, congrArg List.length h.state_calls⟩
  | succ n ih =>
    obtain ⟨x, hx, hxq⟩ := Option.bind_eq_some_iff.1 hq
    obtain ⟨c, a, -, hcalls, t, hxt, ht⟩ := h.step hx
    obtain ⟨u, hqu, hlen⟩ := ih hxt hxq
    refine ⟨u, hqu, ?_⟩
    rw [hlen, ht, hcalls, h.state_calls, List.length_append, List.length_singleton]
    omega

/-! ### The obligations -/

/-- Settles O5: the cases of `step`. -/
theorem stepRunsTheDecodedInstruction : Obligations.StepRunsTheDecodedInstruction := by
  intro s request rest
  exact ⟨fun _ hc => step_of_pending hc, step_of_no_request,
    fun hp hr => ⟨fun _ hd => step_of_request hp hr hd, step_of_illegal hp hr⟩⟩

/-- Settles O10: the procedure a request starts is quiet between its calls, so each engine step adds its one record,
and `exec` is the outcome of running those steps. -/
theorem operationsRunOneCallAtATime : Obligations.OperationsRunOneCallAtATime := by
  intro i s
  refine ⟨operationOf_eq_none_iff i s, fun r hr => exec_of_operation hr, fun p hp => ?_⟩
  have hquiet : p.Quiet s := (operationOf_runs hp : Started s p).quiet
  have hexec : exec i s = p.run.outcome := exec_of_operation hp
  obtain ⟨n, q, hsteps, hend, hcame⟩ := Proc.run_eq_steps p
  obtain ⟨-, -, hlen⟩ := hquiet.steps hsteps
  refine ⟨hquiet.state_calls, n, q, hsteps, hend, hlen, fun m x y _ hx hy => ?_, ?_⟩
  · obtain ⟨u, hxu, -⟩ := hquiet.steps hx
    obtain ⟨c, a, ha, hcalls, -⟩ := hxu.step hy
    exact ⟨c, a, ha, hcalls⟩
  · rcases hcame with ⟨res, t, hq, hrun⟩ | ⟨c, t, k, hq, hrun⟩
    · exact .inl ⟨res, t, hq, by rw [hexec, hrun, Run.outcome_done]; rfl⟩
    · exact .inr ⟨c, t, k, hq, by rw [hexec, hrun, Run.outcome_stuck]⟩

/-- Settles O3: the registers are well formed between any two calls of an operation, and `PHASE` is back at rest
when it ends. -/
theorem everyStepKeepsTheInvariant : Obligations.EveryStepKeepsTheInvariant := by
  intro s t hs h
  rcases step_next h with rfl | ⟨i, rest, hexec⟩
  · exact hs
  · exact exec_keeps_inv (s := s.setRequests rest) hs hexec

end Sys2Proof.Machine
end

section
/-! PROOFS. The state family (spec/10_state.md): reset (R36), the builder's registers (R24, R25), who may write
configuration and handles (R23, R30, R37), and reads that are all or nothing (R28). -/

namespace Sys2Proof.Machine

/-! ### Reset -/

/-- Settles O1: the values of `State.reset`. -/
theorem resetRegisters : Obligations.ResetRegisters :=
  ⟨rfl, rfl, rfl, rfl, rfl, rfl, rfl⟩

/-- Settles O2: unconfigured, with no handle, no cached buffer and no call, only the parameters ask for anything. -/
theorem resetMeetsInvariant : Obligations.ResetMeetsInvariant := by
  have hslaves : State.reset.SlavesOk := ⟨List.Pairwise.nil, nofun⟩
  exact ⟨⟨params_ok, ⟨fun _ => rfl, Nat.zero_le _⟩, hslaves, nofun, .inl rfl⟩, nofun, rfl⟩

/-! ### The builder -/

@[simp] theorem length_rep {α : Type} (k : Nat) (s : List α) : (rep k s).length = k * s.length := by
  simp [rep]

theorem unitsBytes_replicate (P : Params) (k : Nat) (u : CmdUnit) :
    unitsBytes P (List.replicate k u) = rep k (unitBytes P u) := by
  induction k with
  | zero => rfl
  | succ k ih => simp [List.replicate_succ, unitsBytes_cons, rep, ih]

theorem buildTemplates_start (P : Params) :
    (buildTemplates P).start = rep 4 (buildTemplates P).dataLow ++ rep 4 (buildTemplates P).clkDataLow := by
  simp [buildTemplates, startUnits, Config.nHold, unitsBytes_append, unitsBytes_replicate, -List.reduceReplicate]

theorem buildTemplates_stop (P : Params) :
    (buildTemplates P).stop = rep 4 (buildTemplates P).clkDataLow ++ rep 4 (buildTemplates P).dataLow ++
      rep P.nStopIdle (buildTemplates P).idle := by
  simp [buildTemplates, stopUnits, Config.nStopHold, unitsBytes_append, unitsBytes_replicate, -List.reduceReplicate]

theorem buildTemplates_ruAck (P : Params) :
    (buildTemplates P).ruAck =
      (buildTemplates P).readByte ++ (buildTemplates P).ack ++ (buildTemplates P).clkLowDataHigh := by
  simp [buildTemplates, ruAckUnits, unitsBytes_cons, unitsBytes_nil]

theorem buildTemplates_ruNack (P : Params) :
    (buildTemplates P).ruNack =
      (buildTemplates P).readByte ++ (buildTemplates P).nack ++ (buildTemplates P).clkLowDataHigh := by
  simp [buildTemplates, ruNackUnits, unitsBytes_cons, unitsBytes_nil]

/-- `RU_ACK` and `RU_NACK` differ in their acknowledge unit alone (30_encoding.md R96, R97). -/
theorem buildTemplates_ruAck_length {P : Params} (h : P.EncOk) :
    (buildTemplates P).ruAck.length = (buildTemplates P).ruNack.length := by
  obtain ⟨-, -, hlen⟩ := h
  have hunits : (buildTemplates P).ack.length = (buildTemplates P).nack.length := hlen
  simp [buildTemplates_ruAck, buildTemplates_ruNack, hunits]

theorem buildTemplates_ruNack_length_pos {P : Params} (h : P.EncOk) : 0 < (buildTemplates P).ruNack.length := by
  have hread : 0 < (buildTemplates P).readByte.length := unitBytes_length_pos h .readByte
  rw [buildTemplates_ruNack]
  simp only [List.length_append]
  omega

/-- `CHUNK_SIZE` is positive where either capacity holds a read unit (40_command_builder.md R145,
70_reset_and_hazards.md R302). -/
theorem one_le_chunkSizeOf_iff {t : Templates} (h : 0 < t.ruNack.length) (tx rx : Nat) :
    1 ≤ chunkSizeOf t tx rx ↔ 3 ≤ rx ∧ t.ruNack.length ≤ tx := by
  have htx : 1 ≤ tx / t.ruNack.length ↔ t.ruNack.length ≤ tx := Nat.div_pos_iff.trans (and_iff_right h)
  have hrx : 1 ≤ (rx : Int) - Config.rxReserve ↔ 3 ≤ rx := by simp only [Config.rxReserve]; omega
  rw [chunkSizeOf, unitLen, le_min_iff, hrx, ← htx]
  norm_cast

/-- The units of the table of R96, at any pins. -/
theorem buildTemplates_units_default {P : Params} (h : P.enc = Config.enc) :
    let p := P.pins
    let t := buildTemplates P
    t.idle = [0x80, p.idleLevel, p.direction] ∧
    t.dataLow = [0x80, p.idleLevel &&& ~~~p.sdaOMask, p.direction] ∧
    t.clkDataLow = [0x80, p.idleLevel &&& ~~~(p.sdaOMask ||| p.sclMask), p.direction] ∧
    t.clkLowDataHigh = [0x80, p.idleLevel &&& ~~~p.sclMask, p.direction] ∧
    t.writeByte = [0x11, 0x00, 0x00] ∧ t.readBit = [0x22, 0x00] ∧ t.flush = [0x87] ∧
    t.readByte = [0x20, 0x00, 0x00] ∧ t.ack = [0x13, 0x00, 0x00] ∧ t.nack = [0x13, 0x00, 0xFF] := by
  simp only [buildTemplates, unitBytes, h]
  exact ⟨rfl, rfl, rfl, rfl, rfl, rfl, rfl, rfl, rfl, rfl⟩

/-- The lengths of R98: those of the units, added up along the expansions of R97. -/
theorem buildTemplates_lengths_default {P : Params} (h : P.enc = Config.enc) :
    let t := buildTemplates P
    t.start.length = 24 ∧ t.stop.length = 24 + 3 * P.nStopIdle ∧ t.ruAck.length = 9 ∧ t.ruNack.length = 9 ∧
    (∀ ab, (t.prologCmd ab).length = 34) ∧ (∀ b, (t.wu b).length = 7) ∧
    (∀ n, (t.chunkMid n).length = 9 * n) ∧ (∀ n, 1 ≤ n → (t.chunkLast n).length = 9 * n + 1) := by
  intro t
  obtain ⟨idle, dataLow, clkDataLow, clkLowDataHigh, writeByte, readBit, flush, readByte, ack, nack⟩ :=
    buildTemplates_units_default h
  have hidle : t.idle.length = 3 := by rw [idle]; rfl
  have hflush : t.flush.length = 1 := by rw [flush]; rfl
  have hstart : t.start.length = 24 := by simp [t, buildTemplates_start, dataLow, clkDataLow]
  have hstop : t.stop.length = 24 + 3 * P.nStopIdle := by
    simp only [t, buildTemplates_stop, idle, dataLow, clkDataLow, List.length_append, length_rep, List.length_cons,
      List.length_nil]
    omega
  have hruAck : t.ruAck.length = 9 := by simp [t, buildTemplates_ruAck, readByte, ack, clkLowDataHigh]
  have hruNack : t.ruNack.length = 9 := by simp [t, buildTemplates_ruNack, readByte, nack, clkLowDataHigh]
  have hwu (b : Byte) : (t.wu b).length = 7 := by simp [Templates.wu, t, writeByte, readBit, flush]
  refine ⟨hstart, hstop, hruAck, hruNack, fun ab => ?_, hwu, fun n => ?_, fun n hn => ?_⟩
  · simp [Templates.prologCmd, hidle, hstart, hwu]
  · simp [Templates.chunkMid, hruAck, Nat.mul_comm]
  · simp only [Templates.chunkLast, List.length_append, length_rep, hruAck, hruNack, hflush]
    omega

/-- Settles O21: pin sets and heads are those of the builder's own definition, the rest is concatenation. -/
theorem builderFollowsThePins : Obligations.BuilderFollowsThePins := by
  intro P p t
  refine ⟨rfl, rfl, rfl, rfl, buildTemplates_start P, buildTemplates_stop P, rfl, rfl, rfl, rfl, rfl, rfl,
    buildTemplates_ruAck P, buildTemplates_ruNack P, fun _ _ => rfl, fun h => ?_, fun h => ?_⟩
  · exact ⟨buildTemplates_ruAck_length h, one_le_chunkSizeOf_iff (buildTemplates_ruNack_length_pos h)⟩
  · obtain ⟨idle, dataLow, clkDataLow, clkLowDataHigh, writeByte, readBit, flush, readByte, ack, nack⟩ :=
      buildTemplates_units_default h
    exact ⟨idle, dataLow, clkDataLow, clkLowDataHigh, writeByte, readBit, flush, readByte, ack, nack,
      buildTemplates_lengths_default h⟩

/-! ### What a bus operation starts -/

theorem Operation.Runs.mono {P Q : Proc Result → Prop} {o : Operation} (h : o.Runs P) (hPQ : ∀ p, P p → Q p) :
    o.Runs Q := by
  cases o with
  | running p => exact hPQ p h
  | refused r => trivial

/-- The procedures a bus operation can start in `s`: it is rejected before any call, or runs with the transaction
registers written. -/
inductive BusStarted (s : State) : Proc Result → Prop where
  | rejected (k : ErrKind) : BusStarted s (.done (.err k) s)
  | transaction (x : Transaction) : BusStarted s (run (s.setTxn x))
  | poll (x : Transaction) : BusStarted s (runPoll (s.setTxn x))

/-- A failed validation ends the operation with an error, and never with `Ok` (42_operations.md R190). -/
theorem validated_runs_err {P : Proc Result → Prop} {s : State} {k : Operation} (e : Option ErrKind)
    (hd : ∀ kind, P (.done (.err kind) s)) (h : k.Runs P) : (validated e s k).Runs P := by
  cases e with
  | none => exact h
  | some kind => exact hd kind

/-- What needs chunks runs only where `CHUNK_SIZE ≥ 1` (70_reset_and_hazards.md R308). -/
theorem needsChunks_runs_pos {P : Proc Result → Prop} {s : State} {k : Operation} (h : 1 ≤ s.chunkSize → k.Runs P) :
    (needsChunks s k).Runs P := by
  unfold needsChunks
  split
  · next hpos => exact h hpos
  · trivial

section BusOperations

variable (s : State)

theorem readOp_runs_bus (a n : Nat) : (readOp a n s).Runs (BusStarted s) :=
  whenFree_runs (validated_runs_err _ .rejected (needsChunks_runs (.transaction _)))

theorem writeOp_runs_bus (a : Nat) (out : Bytes) : (writeOp a out s).Runs (BusStarted s) :=
  whenFree_runs (validated_runs_err _ .rejected (.transaction _))

theorem exchangeOp_runs_bus (a : Nat) (out : Bytes) (n : Nat) : (exchangeOp a out n s).Runs (BusStarted s) :=
  whenFree_runs (validated_runs_err _ .rejected (needsChunks_runs (.transaction _)))

theorem pollOp_runs_bus (a : Nat) : (pollOp a s).Runs (BusStarted s) :=
  whenFree_runs (validated_runs_err _ .rejected (.poll _))

end BusOperations

/-- Whatever a bus operation starts is one of the procedures of `BusStarted`. -/
theorem operationOf_runs_bus {i : Instr} (hi : i.isBusOp = true) {s : State} {o : Operation}
    (h : operationOf i s = some o) : o.Runs (BusStarted s) := by
  cases i <;> cases hi <;> cases h
  case read a n => exact readOp_runs_bus s a n
  case write a out => exact writeOp_runs_bus s a out
  case exchange a out n => exact exchangeOp_runs_bus s a out n
  case poll a => exact pollOp_runs_bus s a
  case sReadFrom key a n => exact withHandle_runs fun h _ => withPrefix_runs fun p => exchangeOp_runs_bus s h.ea p n
  case sWriteTo key a out =>
    exact withHandle_runs fun h _ => withPrefix_runs fun p => writeOp_runs_bus s h.ea (p ++ out)
  case sRead key n => exact withHandle_runs fun h _ => readOp_runs_bus s h.ea n
  case sWrite key out => exact withHandle_runs fun h _ => writeOp_runs_bus s h.ea out
  case sExchange key out n => exact withHandle_runs fun h _ => exchangeOp_runs_bus s h.ea out n
  case sPoll key => exact withHandle_runs fun h _ => pollOp_runs_bus s h.ea

/-- A host instruction that answers a next state ran the procedure it started to that state. -/
theorem exec_next_of_runs {P : Proc Result → Prop} {i : Instr} {s t : State} {o : Operation}
    (ho : operationOf i s = some o) (hruns : o.Runs P) (h : exec i s = .next t) :
    ∃ p, P p ∧ p.run.outcome = .next t := by
  rw [exec_of_operation ho] at h
  cases o with
  | refused r => cases h
  | running p => exact ⟨p, hruns, h⟩

/-! ### What an instruction writes of the configuration and the handles -/

/-- The configuration clauses of R23, R226 and R270 for `i` from `s` to `t`. -/
def ConfigurationWrites (i : Instr) (s t : State) : Prop :=
  (∀ f z, i ≠ .configure f z) →
    t.bus.pins = s.bus.pins ∧ t.bus.txCap = s.bus.txCap ∧ t.bus.rxCap = s.bus.rxCap ∧ t.tpl = s.tpl ∧
      t.chunkSize = s.chunkSize ∧
      (i ≠ .terminate → t.bus.freq = s.bus.freq ∧ t.configured = s.configured) ∧
      (t.configured = true → s.configured = true)

/-- No handle is removed, no base changed, and the other fields are written by the operation named for each
(10_state.md R30, R31). -/
def HandlesKept (i : Instr) (s t : State) : Prop :=
  ∀ k h, mapGet k s.slaves = some h →
    ∃ h', mapGet k t.slaves = some h' ∧ h'.base = h.base ∧
      ((∀ big w, i ≠ .sConfigureRegister k big w) → h'.regWidth = h.regWidth ∧ h'.regBig = h.regBig) ∧
      ((∀ o, i ≠ .sShiftAddress k o) → h'.offset = h.offset)

/-- Only `getSlave` adds a handle. -/
def HandlesAdded (i : Instr) (s t : State) : Prop :=
  ∀ k, mapGet k s.slaves = none → mapGet k t.slaves ≠ none → i = .getSlave k

theorem sameConfiguration_refl (s : State) : SameConfiguration s s := (busFrame_closed.refl s).config

/-- What `Obligations.OnlyTheNamedOperationsConfigure` asks of one instruction from `s` to `t`. -/
def NamedWrites (i : Instr) (s t : State) : Prop :=
  t.par = s.par ∧ ConfigurationWrites i s t ∧ HandlesKept i s t ∧ HandlesAdded i s t

section Writes

variable {i : Instr} {s t : State}

/-- `configure` may write all of the configuration. -/
theorem configurationWrites_configure (f : Freq) (z : Bool) : ConfigurationWrites (.configure f z) s t :=
  fun h => absurd rfl (h f z)

theorem configurationWrites_of_eq (hc : t.configured = s.configured) (hb : t.bus = s.bus) (ht : t.tpl = s.tpl)
    (hs : t.chunkSize = s.chunkSize) : ConfigurationWrites i s t :=
  fun _ => ⟨by rw [hb], by rw [hb], by rw [hb], ht, hs, fun _ => ⟨by rw [hb], hc⟩, fun h => hc ▸ h⟩

theorem handlesKept_of_eq (h : t.slaves = s.slaves) : HandlesKept i s t :=
  fun _ old found => ⟨old, h ▸ found, rfl, fun _ => ⟨rfl, rfl⟩, fun _ => rfl⟩

theorem handlesAdded_of_eq (h : t.slaves = s.slaves) : HandlesAdded i s t :=
  fun _ hnone hsome => absurd (h ▸ hnone) hsome

/-- A handle written back under its key, its base kept. -/
theorem handlesKept_of_put {key : Nat} {old new : Handle} (found : mapGet key s.slaves = some old)
    (hput : t.slaves = mapPut key new s.slaves) (hbase : new.base = old.base)
    (hreg : (∀ big w, i ≠ .sConfigureRegister key big w) → new.regWidth = old.regWidth ∧ new.regBig = old.regBig)
    (hoffset : (∀ o, i ≠ .sShiftAddress key o) → new.offset = old.offset) : HandlesKept i s t := by
  intro k h hk
  by_cases e : k = key
  · subst e
    obtain rfl : old = h := Option.some.inj (found.symm.trans hk)
    exact ⟨new, by rw [hput, mapGet_mapPut_same], hbase, hreg, hoffset⟩
  · exact ⟨h, by rw [hput, mapGet_mapPut_other e, hk], rfl, fun _ => ⟨rfl, rfl⟩, fun _ => rfl⟩

theorem handlesAdded_of_put {key : Nat} {old new : Handle} (found : mapGet key s.slaves = some old)
    (hput : t.slaves = mapPut key new s.slaves) : HandlesAdded i s t := by
  intro k hnone hsome
  have hne : k ≠ key := by rintro rfl; simp [hnone] at found
  rw [hput, mapGet_mapPut_other hne] at hsome
  exact absurd hnone hsome

theorem namedWrites_of_same (h : SameConfiguration s t) : NamedWrites i s t := by
  obtain ⟨hconfigured, hbus, htpl, hsize, hslaves, -, -, hpar⟩ := h
  exact ⟨hpar, configurationWrites_of_eq hconfigured hbus htpl hsize, handlesKept_of_eq hslaves,
    handlesAdded_of_eq hslaves⟩

end Writes

/-! ### Procedures and their writes -/

/-- Where the procedure returns `P` holds of the state, and where it is stuck nothing of the configuration has
changed. -/
def Proc.Writes {α : Type} (s : State) (p : Proc α) (P : State → Prop) : Prop :=
  p.Ensures (fun _ t => P t) (SameConfiguration s)

theorem Proc.Writes.andThen {α β : Type} {s : State} {p : Proc α} {f : α → State → Proc β} {P Q : State → Prop}
    (h : p.Writes s P) (hf : ∀ a t, P t → (f a t).Writes s Q) : (p.andThen f).Writes s Q :=
  Proc.Ensures.andThen h hf

theorem Proc.run_call_of_some {α : Type} {c : Call} {s t : State} {a : Answer} (h : perform c s = some (a, t))
    (k : Answer → State → Proc α) : (Proc.call c s k).run = (k a t).run := by
  simp [Proc.run, h]

theorem Proc.run_call_of_none {α : Type} {c : Call} {s : State} (h : perform c s = none)
    (k : Answer → State → Proc α) : (Proc.call c s k).run = .stuck (hang c s) := by
  simp [Proc.run, h]

/-- One call, and nothing after its answer, leaves the configuration as it was. -/
theorem Proc.call_writes {α : Type} {s t : State} (h : SameConfiguration s t) (c : Call) (f : Answer → α) :
    (Proc.call c t fun a u => .done (f a) u).Writes s (SameConfiguration s) := by
  cases hp : perform c t with
  | none => exact (Proc.ensures_of_run_stuck (Proc.run_call_of_none hp _)).2 h
  | some r =>
    obtain ⟨-, hu⟩ := perform_frame (a := r.1) (t := r.2) hp
    exact (Proc.ensures_of_run_done (Proc.run_call_of_some hp _)).2 (hu ▸ h)

theorem Proc.Keeps.writes {α : Type} {s : State} {p : Proc α} (h : p.Keeps BusFrame s) :
    p.Writes s (SameConfiguration s) :=
  h.mono (fun _ _ ht => ht.config) fun _ ⟨_, _, hu, e, _⟩ => e ▸ hu.config

theorem BusStarted.writes {s : State} {p : Proc Result} (h : BusStarted s p) : p.Writes s (SameConfiguration s) := by
  cases h with
  | rejected k => exact sameConfiguration_refl s
  | transaction x => exact (run_frame (s.setTxn x)).writes
  | poll x => exact (runPoll_frame (s.setTxn x)).writes

theorem flushRun_writes (s : State) : (flushRun s).Writes s (SameConfiguration s) := by
  unfold flushRun
  split
  · exact sameConfiguration_refl s
  · refine (Proc.call_writes (sameConfiguration_refl s) _ _).andThen fun ok t ht => ?_
    split <;> exact ht

/-- `configure` writes no parameter and no handle. -/
theorem configureRun_writes (f : Freq) (z : Bool) (s : State) :
    (configureRun f z s).Writes s fun t => t.par = s.par ∧ t.slaves = s.slaves := by
  have kept {t u : State} (h : SameConfiguration s t) (hpar : u.par = t.par) (hslaves : u.slaves = t.slaves) :
      u.par = s.par ∧ u.slaves = s.slaves := by
    obtain ⟨-, -, -, -, hs, -, -, hp⟩ := h
    exact ⟨hpar.trans hp, hslaves.trans hs⟩
  refine (Proc.call_writes (sameConfiguration_refl s) _ _).andThen fun c t ht => ?_
  cases c with
  | none => exact kept ht rfl rfl
  | some caps =>
    refine (Proc.call_writes ht _ _).andThen fun _ t ht => (Proc.call_writes ht _ _).andThen fun _ t ht =>
      (Proc.call_writes ht _ _).andThen fun w t ht => ?_
    split
    · exact (Proc.call_writes ht _ _).andThen fun _ t ht => kept ht rfl rfl
    · exact kept ht rfl rfl

/-- `terminate` leaves the CONFIGURED mode and writes `FREQ`; nothing else of the configuration, and no handle. -/
theorem terminateRun_writes (s : State) : (terminateRun s).Writes s (NamedWrites .terminate s) := by
  unfold terminateRun
  split
  · refine (Proc.call_writes (sameConfiguration_refl s) _ _).andThen fun _ t ht => ?_
    obtain ⟨-, hbus, htpl, hsize, hslaves, -, -, hpar⟩ := ht
    have hconfig : ConfigurationWrites .terminate s
        ((((t.setConfigured false).setCache []).setBus
          { t.bus with freq := Config.freqAfterTerminate t.freeDraws }).drawFreq) :=
      fun _ => ⟨hbus ▸ rfl, hbus ▸ rfl, hbus ▸ rfl, htpl, hsize, fun h => absurd rfl h, nofun⟩
    exact ⟨hpar, hconfig, handlesKept_of_eq hslaves, handlesAdded_of_eq hslaves⟩
  · exact namedWrites_of_same (sameConfiguration_refl s)

/-- `getSlave` adds at most the handle of its address, where there was none (43_management.md R222). -/
theorem getSlaveRun_writes (a : Nat) (s : State) : (getSlaveRun a s).Writes s (NamedWrites (.getSlave a) s) := by
  unfold getSlaveRun
  split
  · exact namedWrites_of_same (sameConfiguration_refl s)
  · split
    · exact namedWrites_of_same (sameConfiguration_refl s)
    · next hnone =>
      refine ⟨rfl, configurationWrites_of_eq rfl rfl rfl rfl, fun k h hk => ?_, fun k hk hadded => ?_⟩
      · have hne : k ≠ a := by rintro rfl; simp [hnone] at hk
        exact ⟨h, by simp [mapGet_mapPut_other hne, hk], rfl, fun _ => ⟨rfl, rfl⟩, fun _ => rfl⟩
      · by_contra hne
        have hne : k ≠ a := by rintro rfl; exact hne rfl
        exact hadded (by simp [mapGet_mapPut_other hne, hk])

/-- `configureRegister` writes the register fields of its handle (44_slave_handle.md R241). -/
theorem sConfigureRegisterOp_writes (key : Nat) (big : Bool) (width : Nat) (s : State) :
    (sConfigureRegisterOp key big width s).Runs
      fun p => p.Writes s (NamedWrites (.sConfigureRegister key big width) s) :=
  withHandle_runs fun old found => by
    split
    · exact ⟨rfl, configurationWrites_of_eq rfl rfl rfl rfl,
        handlesKept_of_put found rfl rfl (fun h => absurd rfl (h big width)) fun _ => rfl,
        handlesAdded_of_put found rfl⟩
    · exact namedWrites_of_same (sameConfiguration_refl s)

/-- `shiftAddress` writes the offset of its handle (44_slave_handle.md R242). -/
theorem sShiftAddressOp_writes (key offset : Nat) (s : State) :
    (sShiftAddressOp key offset s).Runs fun p => p.Writes s (NamedWrites (.sShiftAddress key offset) s) :=
  withHandle_runs fun old found => by
    split
    · exact ⟨rfl, configurationWrites_of_eq rfl rfl rfl rfl,
        handlesKept_of_put found rfl rfl (fun _ => ⟨rfl, rfl⟩) fun h => absurd rfl (h offset),
        handlesAdded_of_put found rfl⟩
    · exact namedWrites_of_same (sameConfiguration_refl s)

theorem Proc.Writes.named {α : Type} {s : State} {p : Proc α} (h : p.Writes s (SameConfiguration s)) (i : Instr) :
    p.Writes s (NamedWrites i s) :=
  h.mono (fun _ _ => namedWrites_of_same) fun _ => id

theorem endWith_writes (i : Instr) (r : Result) (s : State) :
    (endWith r s).Runs fun p => p.Writes s (NamedWrites i s) :=
  namedWrites_of_same (sameConfiguration_refl s)

theorem flushHostOp_writes (i : Instr) (s : State) :
    (flushHostOp s).Runs fun p => p.Writes s (NamedWrites i s) :=
  whenFree_runs ((flushRun_writes s).named i)

/-- Every management operation and handle writer writes only what it is named for. -/
theorem operationOf_writes_of_not_bus {i : Instr} (hi : i.isBusOp = false) {s : State} {o : Operation}
    (h : operationOf i s = some o) : o.Runs fun p => p.Writes s (NamedWrites i s) := by
  cases i <;> cases hi <;> cases h
  case configure f z =>
    refine whenFree_runs ((configureRun_writes f z s).mono (fun _ t ⟨hpar, hslaves⟩ => ?_) fun _ => id)
    exact ⟨hpar, configurationWrites_configure f z, handlesKept_of_eq hslaves, handlesAdded_of_eq hslaves⟩
  case terminate => exact whenFree_runs (terminateRun_writes s)
  case getSlave a => exact whenFree_runs (getSlaveRun_writes a s)
  case flushOp => exact flushHostOp_writes _ s
  case frequency => exact whenFree_runs (endWith_writes _ _ s)
  case frequencyMax => exact whenFree_runs (endWith_writes _ _ s)
  case sConfigureRegister key big width => exact sConfigureRegisterOp_writes key big width s
  case sShiftAddress key offset => exact sShiftAddressOp_writes key offset s
  case sFlush key => exact withHandle_runs fun _ _ => flushHostOp_writes _ s

/-- Every host request writes only what it is named for. -/
theorem operationOf_writes {i : Instr} {s : State} {o : Operation} (h : operationOf i s = some o) :
    o.Runs fun p => p.Writes s (NamedWrites i s) := by
  cases hi : i.isBusOp with
  | true => exact (operationOf_runs_bus hi h).mono fun _ hp => hp.writes.named i
  | false => exact operationOf_writes_of_not_bus hi h

theorem exec_namedWrites {i : Instr} {s t : State} (h : exec i s = .next t) : NamedWrites i s t := by
  cases ho : operationOf i s with
  | none =>
    obtain ⟨c, hc⟩ := exec_of_command ((operationOf_eq_none_iff i s).1 ho) s
    cases hc.symm.trans h
    exact namedWrites_of_same (sameConfiguration_refl s)
  | some o =>
    obtain ⟨p, hp, hout⟩ := exec_next_of_runs ho (operationOf_writes ho) h
    rcases Run.outcome_next hout with ⟨r, u, hu, rfl⟩ | hstuck
    · exact (Proc.ensures_of_run_done hu).1 hp
    · exact namedWrites_of_same ((Proc.ensures_of_run_stuck hstuck).1 hp)

/-- Settles O47: each procedure writes only what its instruction is named for, and a stuck one has written nothing. -/
theorem onlyTheNamedOperationsConfigure : Obligations.OnlyTheNamedOperationsConfigure :=
  fun _ _ _ h => exec_namedWrites h

/-! ### Reads that are all or nothing -/

/-- `P` of what the procedure returns, if it returns. -/
def Proc.Returns {α : Type} (p : Proc α) (P : α → State → Prop) : Prop := p.Ensures P fun _ => True

theorem Proc.Returns.andThen {α β : Type} {p : Proc α} {f : α → State → Proc β} {P : α → State → Prop}
    {Q : β → State → Prop} (h : p.Returns P) (hf : ∀ a t, P a t → (f a t).Returns Q) : (p.andThen f).Returns Q :=
  Proc.Ensures.andThen h hf

theorem Proc.Returns.and {α : Type} {p : Proc α} {P Q : α → State → Prop} (hP : p.Returns P) (hQ : p.Returns Q) :
    p.Returns fun a t => P a t ∧ Q a t := by
  cases hr : p.run with
  | done a t =>
    exact (Proc.ensures_of_run_done hr).2 ⟨(Proc.ensures_of_run_done hr).1 hP, (Proc.ensures_of_run_done hr).1 hQ⟩
  | stuck t => exact (Proc.ensures_of_run_stuck hr).2 trivial

theorem Proc.returns_of_forall {α : Type} (p : Proc α) {P : α → State → Prop} (h : ∀ a t, P a t) : p.Returns P := by
  cases hr : p.run with
  | done a t => exact (Proc.ensures_of_run_done hr).2 (h a t)
  | stuck t => exact (Proc.ensures_of_run_stuck hr).2 trivial

theorem Proc.Keeps.returns {α : Type} {R : State → State → Prop} {s : State} {p : Proc α} (h : p.Keeps R s) :
    p.Returns fun _ t => R s t :=
  Proc.Ensures.mono h (fun _ _ => id) fun _ _ => trivial

/-- A round trip leaves the transaction registers and `CHUNK_SIZE` alone, and returns at most the bytes asked for
(20_memory.md R62). -/
theorem roundTrip_returns {v : Bytes} {n budget : Nat} {s : State} {k : Bytes → State → Proc PhaseOutcome}
    {P : PhaseOutcome → State → Prop} (hfail : ∀ t, t.txn = s.txn → P .transport t)
    (hk : ∀ r t, r.length ≤ n → t.txn = s.txn → t.chunkSize = s.chunkSize → (k r t).Returns P) :
    (roundTrip v n budget s k).Returns P := by
  have hsend : (memWrite v s).Returns fun _ t => t.txn = s.txn ∧ t.chunkSize = s.chunkSize := by
    rcases memWrite_cases v s with ⟨ok, rest, -, hrun⟩ | ⟨-, hrun⟩
    · exact (Proc.ensures_of_run_done hrun).2 ⟨rfl, rfl⟩
    · exact (Proc.ensures_of_run_stuck hrun).2 trivial
  refine hsend.andThen fun ok t ⟨htxn, hsize⟩ => ?_
  have hreceive : (memRead n budget t).Returns fun r u =>
      r.length ≤ n ∧ u.txn = s.txn ∧ u.chunkSize = s.chunkSize := by
    rcases memRead_cases n budget t with ⟨r, rest, -, hrun⟩ | ⟨-, hrun⟩
    · exact (Proc.ensures_of_run_done hrun).2 ⟨List.length_take_le n r, htxn, hsize⟩
    · exact (Proc.ensures_of_run_stuck hrun).2 trivial
  split
  · exact hreceive.andThen fun r u ⟨hlen, htxn, hsize⟩ => hk r u hlen htxn hsize
  · exact hfail t htxn

theorem epilog_returns (s : State) : (epilog s).Returns fun _ t => t.txn = s.txn :=
  roundTrip_returns (s := s.setPhase .epilog) (fun _ h => h) fun _ _ _ h _ => h

/-! #### The read phase -/

/-- The bytes of an `Acked` are the `n` bytes of a read, and those of `RBUF`. -/
def FullRead (n : Nat) (d : Bytes) (x : Transaction) : Prop := d.length = n ∧ d = x.rbuf

/-- Where the outcome is `Acked`, its bytes satisfy `A` with the transaction registers. -/
def AckedWith (A : Bytes → Transaction → Prop) (o : PhaseOutcome) (t : State) : Prop := ∀ d, o = .acked d → A d t.txn

@[simp] theorem cachedChunkMid_txn (k : Nat) (s : State) : (cachedChunkMid k s).2.txn = s.txn := by
  unfold cachedChunkMid
  cases mapGet k s.chunkCache <;> rfl

@[simp] theorem nextChunk_txn (s : State) : (nextChunk s).2.2.txn = s.txn := by
  unfold nextChunk
  split
  · exact cachedChunkMid_txn _ s
  · rfl

@[simp] theorem nextChunk_chunkSize (s : State) : (nextChunk s).2.2.chunkSize = s.chunkSize := by
  unfold nextChunk
  split
  · exact cachedChunkMid_chunkSize _ s
  · rfl

/-- A chunk holds at least one byte and no more than remain (41_phases.md R164, R165). -/
theorem nextChunk_size {s : State} (hc : 1 ≤ s.chunkSize) (hr : s.txn.rem ≠ 0) :
    1 ≤ (nextChunk s).1 ∧ (nextChunk s).1 ≤ s.txn.rem := by
  unfold nextChunk
  split <;> constructor <;> dsimp only <;> omega

/-- The loop of the read phase ends in `Acked` only when every byte that remained has come. -/
theorem readChunks_full (fuel : Nat) (s : State) (hc : 1 ≤ s.chunkSize) (hf : s.txn.rem ≤ fuel) :
    (readChunks fuel s).Returns (AckedWith (FullRead (s.txn.rbuf.length + s.txn.rem))) := by
  have finished {s : State} (h : s.txn.rem = 0) :
      AckedWith (FullRead (s.txn.rbuf.length + s.txn.rem)) (.acked s.txn.rbuf) s := by
    rintro d ⟨⟩
    exact ⟨by rw [h, Nat.add_zero], rfl⟩
  induction fuel generalizing s with
  | zero => exact finished (Nat.le_zero.1 hf)
  | succ fuel ih =>
    unfold readChunks
    split
    · next h => exact finished h
    · next h =>
      obtain ⟨hpos, hle⟩ := nextChunk_size hc h
      refine roundTrip_returns (fun _ _ => nofun) fun r t hlen htxn hsize => ?_
      rw [nextChunk_txn] at htxn
      rw [nextChunk_chunkSize] at hsize
      split
      · exact nofun
      · next hfull =>
        have hrest := ih (takeChunk (nextChunk s).1 r t) (by simpa [takeChunk, hsize] using hc)
          (by simp only [takeChunk, State.setTxn_txn, htxn]; omega)
        have htotal : (takeChunk (nextChunk s).1 r t).txn.rbuf.length + (takeChunk (nextChunk s).1 r t).txn.rem =
            s.txn.rbuf.length + s.txn.rem := by
          simp only [takeChunk, State.setTxn_txn, htxn, List.length_append]
          omega
        rwa [htotal] at hrest

theorem readPhase_full (n : Nat) {s : State} (hc : 1 ≤ s.chunkSize) :
    (readPhase n s).Returns (AckedWith (FullRead n)) := by
  simpa [readPhase] using readChunks_full n ((s.setPhase .payload).setTxn { s.txn with rem := n, rbuf := [] }) hc le_rfl

theorem ifAcked_returns {A : Bytes → Transaction → Prop} {s : State} {p : Proc PhaseOutcome}
    {k : State → Proc PhaseOutcome} (h : p.Keeps BusFrame s)
    (hk : ∀ t, BusFrame s t → (k t).Returns (AckedWith A)) : (ifAcked p k).Returns (AckedWith A) :=
  h.returns.andThen fun o t ht => by
    cases o with
    | acked d => exact hk t ht
    | nack => exact nofun
    | transport => exact nofun

/-- A read phase later in the same attempt is as long, and in chunks as large. -/
theorem BusFrame.readPhase_full {s t : State} (h : BusFrame s t) (hc : 1 ≤ s.chunkSize) :
    (readPhase t.txn.rlen t).Returns (AckedWith (FullRead s.txn.rlen)) := by
  obtain ⟨-, -, -, hsize, -⟩ := h.config
  rw [h.rlen]
  exact Machine.readPhase_full _ (hsize ▸ hc)

/-- The body of a `read` or `exchange` that ends in `Acked` has read in full. -/
theorem body_full {s : State} (hop : s.txn.op = .read ∨ s.txn.op = .exchange) (hc : 1 ≤ s.chunkSize) :
    (body s).Returns (AckedWith (FullRead s.txn.rlen)) := by
  unfold body
  rcases hop with hop | hop <;> rw [hop]
  · exact ifAcked_returns (prolog_keeps busFrame_closed _ s) fun t ht => ht.readPhase_full hc
  · exact ifAcked_returns (prolog_keeps busFrame_closed _ s) fun t ht =>
      ifAcked_returns (writePhase_keeps busFrame_closed _ t) fun u hu =>
        ifAcked_returns (prolog_keeps busFrame_closed _ u) fun v hv =>
          (busFrame_closed.trans ht (busFrame_closed.trans hu hv)).readPhase_full hc

/-! #### The attempts -/

/-- How an attempt leaves `RBUF`: after `Acked` as its body did, else empty (10_state.md R28, 60_exceptions.md
R267 (4)). -/
def Settled (A : Bytes → Transaction → Prop) (o : PhaseOutcome) (t : State) : Prop :=
  match o with
  | .acked d => A d t.txn
  | .nack | .transport => t.txn.rbuf = []

section Attempts

variable {A : Bytes → Transaction → Prop}

theorem attemptOutcome_eq_acked {b e : PhaseOutcome} {d : Bytes} (h : attemptOutcome b e = .acked d) :
    b = .acked d := by
  unfold attemptOutcome at h
  split at h
  · cases h
  · exact h

theorem attemptOnce_settles {s : State} (h : (body s).Returns (AckedWith A)) :
    (attemptOnce s).Returns (Settled A) := by
  refine h.andThen fun b t hb => (epilog_returns t).andThen fun e u hu => ?_
  show Settled A (attemptOutcome b e) (settleRead (attemptOutcome b e) u)
  cases ho : attemptOutcome b e with
  | acked d =>
    show A d u.txn
    rw [hu]
    exact hb d (attemptOutcome_eq_acked ho)
  | nack => rfl
  | transport => rfl

/-- The retry loop ends as its last attempt did; it is entered again only after an attempt that left `RBUF` empty. -/
theorem attemptsFuel_settles {r : State} (hbody : ∀ t, BusFrame r t → (body t).Returns (AckedWith A)) (budget : Nat)
    (fuel : Nat) (s : State) (hs : BusFrame r s) (h0 : fuel = 0 → s.txn.rbuf = []) :
    (attemptsFuel budget fuel s).Returns (Settled A) := by
  induction fuel generalizing s with
  | zero => exact h0 rfl
  | succ fuel ih =>
    have hattempt := (attemptOnce_settles (hbody s hs)).and (attemptOnce_keeps busFrame_closed s).returns
    refine hattempt.andThen fun o t ⟨hsettled, ht⟩ => ?_
    split
    · next hnack =>
      obtain ⟨rfl, -⟩ := hnack
      exact ih _ (busFrame_closed.trans hs (busFrame_closed.trans ht (.setAttempt t _))) fun _ => hsettled
    · exact hsettled

theorem attempts_settles {s : State} (hbody : ∀ t, BusFrame s t → (body t).Returns (AckedWith A)) {budget : Nat}
    (hbudget : budget ≠ 0) : (attempts budget s).Returns (Settled A) :=
  attemptsFuel_settles hbody budget budget _ (.setAttempt s 1) fun h => absurd h hbudget

/-- Attempts that do not end in `Acked` leave `RBUF` empty, whatever the operation. -/
theorem attempts_discard (s : State) {budget : Nat} (hbudget : budget ≠ 0) :
    (attempts budget s).Returns fun o t => (∀ d, o ≠ .acked d) → t.txn.rbuf = [] := by
  have hbody (t : State) : (body t).Returns (AckedWith fun _ _ => True) :=
    Proc.returns_of_forall _ fun _ _ _ _ => trivial
  refine Proc.Ensures.mono (attempts_settles (fun t _ => hbody t) hbudget) (fun o t h hno => ?_) fun _ => id
  cases o with
  | acked d => exact absurd rfl (hno d)
  | nack => exact h
  | transport => exact h

/-- A bus operation ends with an error before any call, or with `RBUF` empty. -/
theorem BusStarted.err_discards {s : State} {p : Proc Result} (h : BusStarted s p) :
    p.Returns fun r t => ∀ k, r = .err k → t.calls = s.calls ∨ t.txn.rbuf = [] := by
  cases h with
  | rejected k => exact fun _ _ => .inl rfl
  | transaction x =>
    exact (attempts_discard _ (by decide)).andThen fun o t ho k hk => .inr (ho (by rintro d rfl; cases hk))
  | poll x =>
    exact (attempts_discard _ (by decide)).andThen fun o t ho k hk => .inr (ho (by rintro d rfl; cases hk))

end Attempts

/-! #### The operations that read -/

/-- The procedures `read` and `exchange` of `n` bytes can start in `s`. -/
inductive ReadStarted (s : State) (n : Nat) : Proc Result → Prop where
  | rejected (k : ErrKind) : ReadStarted s n (.done (.err k) s)
  | transfer (x : Transaction) (hop : x.op = .read ∨ x.op = .exchange) (hlen : x.rlen = n) (hc : 1 ≤ s.chunkSize) :
      ReadStarted s n (run (s.setTxn x))

theorem readOp_runs_read (a n : Nat) (s : State) : (readOp a n s).Runs (ReadStarted s n) :=
  whenFree_runs (validated_runs_err _ .rejected (needsChunks_runs_pos (.transfer _ (.inl rfl) rfl)))

theorem exchangeOp_runs_read (a : Nat) (out : Bytes) (n : Nat) (s : State) :
    (exchangeOp a out n s).Runs (ReadStarted s n) :=
  whenFree_runs (validated_runs_err _ .rejected (needsChunks_runs_pos (.transfer _ (.inr rfl) rfl)))

theorem ReadStarted.bus {s : State} {n : Nat} {p : Proc Result} (h : ReadStarted s n p) : BusStarted s p := by
  cases h with
  | rejected k => exact .rejected k
  | transfer x => exact .transaction x

/-- An `Ok` of `read` or `exchange` holds the `n` bytes of `RBUF`. -/
theorem ReadStarted.ok_full {s : State} {n : Nat} {p : Proc Result} (h : ReadStarted s n p) :
    p.Returns fun r t => ∀ v, r = .ok v → 1 ≤ s.chunkSize ∧ ∃ d, v = .bytes d ∧ d.length = n ∧ d = t.txn.rbuf := by
  cases h with
  | rejected k => exact nofun
  | transfer x hop hlen hc =>
    have hbody (t : State) (ht : BusFrame (s.setTxn x) t) : (body t).Returns (AckedWith (FullRead n)) := by
      obtain ⟨-, -, -, hsize, -⟩ := ht.config
      have hn : t.txn.rlen = n := ht.rlen.trans hlen
      have ht : t.txn.op = x.op := ht.op
      exact hn ▸ body_full (ht ▸ hop) (hsize ▸ hc)
    refine (attempts_settles hbody (by decide)).andThen fun o t ho v hv => ⟨hc, ?_⟩
    cases o with
    | acked d =>
      obtain ⟨hlength, hrbuf⟩ := ho
      have hv : v = .bytes d := by
        rcases hop with hop | hop <;> simpa [resultOf, hop, eq_comm] using hv
      exact ⟨d, hv, hlength, hrbuf⟩
    | nack => cases hv
    | transport => cases hv

/-! #### Back to the instruction -/

/-- A bus operation delivers no result before its end. -/
theorem BusStarted.keeps_responses {s : State} {p : Proc Result} (h : BusStarted s p) :
    p.Ensures (fun _ t => t.responses = s.responses) (fun t => t.responses = s.responses) := by
  have kept {s : State} {p : Proc Result} (h : p.Keeps BusFrame s) :
      p.Ensures (fun _ t => t.responses = s.responses) (fun t => t.responses = s.responses) :=
    h.mono (fun _ _ ht => ht.responses) fun _ ⟨_, _, hu, e, _⟩ => e ▸ hu.responses
  cases h with
  | rejected k => rfl
  | transaction x => exact kept (s := s.setTxn x) (run_frame _)
  | poll x => exact kept (s := s.setTxn x) (runPoll_frame _)

/-- A bus operation that delivered `res` has ended with it. -/
theorem BusStarted.run_of_responded {s t : State} {p : Proc Result} {res : Result} (h : BusStarted s p)
    (hout : p.run.outcome = .next t) (hres : t.responses = s.responses ++ [res]) :
    ∃ u, p.run = .done res u ∧ t = (u.setPhase .idle).respond res := by
  rcases Run.outcome_next hout with ⟨r, u, hu, rfl⟩ | hstuck
  · have hsame : u.responses = s.responses := (Proc.ensures_of_run_done hu).1 h.keeps_responses
    obtain rfl : r = res := by simpa [hsame] using hres
    exact ⟨u, hu, rfl⟩
  · have hsame : t.responses = s.responses := (Proc.ensures_of_run_stuck hstuck).1 h.keeps_responses
    simp [hsame] at hres

/-- Settles O56: the read phase ends in `Acked` only when all `n` bytes have come, and every other attempt discards
`RBUF`. -/
theorem readsAreAllOrNothing : Obligations.ReadsAreAllOrNothing := by
  refine ⟨fun s t a n out v h hres => ?_, fun i s t k hi h hcalls hres => ?_⟩
  · obtain ⟨p, hp, hout⟩ : ∃ p, ReadStarted s n p ∧ p.run.outcome = .next t := by
      rcases h with h | h
      · exact exec_next_of_runs rfl (readOp_runs_read a n s) h
      · exact exec_next_of_runs rfl (exchangeOp_runs_read a out n s) h
    obtain ⟨u, hu, rfl⟩ := hp.bus.run_of_responded hout hres
    exact (Proc.ensures_of_run_done hu).1 hp.ok_full v rfl
  · obtain ⟨o, ho⟩ : ∃ o, operationOf i s = some o := by
      cases i <;> cases hi <;> exact ⟨_, rfl⟩
    obtain ⟨p, hp, hout⟩ := exec_next_of_runs ho (operationOf_runs_bus hi ho) h
    obtain ⟨u, hu, rfl⟩ := hp.run_of_responded hout hres
    exact ((Proc.ensures_of_run_done hu).1 hp.err_discards k rfl).resolve_left hcalls

end Sys2Proof.Machine
end

section
/-! PROOFS. The memory family (spec/20_memory.md): what is written to the TX stream (R61), the order of bits (R63),
one operation at a time (R71), and a send that never returns (R78). -/

namespace Sys2Proof.Machine

/-! ### Bits -/

/-- The bits of a byte on the wire, counted from the most significant (R63). -/
theorem bitsMsbFirst_eq_map_range (b : Byte) : bitsMsbFirst b = (List.range 8).map fun i => b.getLsbD (7 - i) := rfl

/-- Settles O13: both shift units put `bitsMsbFirst` on the wire. -/
theorem bytesShiftMostSignificantBitFirst : Obligations.BytesShiftMostSignificantBitFirst := by
  refine fun s => ⟨fun b => ⟨s.ce.shiftOutByte b, rfl, ?_, rfl, rfl, rfl⟩,
    s.ce.shiftInByte, Config.freeReply s.ce.draws, rfl, ?_, rfl, rfl⟩
  · show s.ce.wire ++ (bitsMsbFirst b).map .masterBit = _
    rw [bitsMsbFirst_eq_map_range, List.map_map, Function.comp_def]
  · show s.ce.wire ++ (bitsMsbFirst (Config.freeReply s.ce.draws)).map .slaveBit = _
    rw [bitsMsbFirst_eq_map_range, List.map_map, Function.comp_def]

/-! ### One operation at a time -/

/-- Every host operation begins with the check that none is in progress (R71). -/
theorem operationOf_of_busy {i : Instr} {s : State} {o : Operation} (hs : ¬s.free) (h : operationOf i s = some o) :
    o = .refused .operationInProgress := by
  cases i <;> cases h <;> exact whenFree_of_busy hs _

/-- Settles O57: the check stands first in whatever the request starts. -/
theorem busyEngineRefuses : Obligations.BusyEngineRefuses := by
  intro i s hformat hs
  cases ho : operationOf i s with
  | none => exact absurd ((operationOf_eq_none_iff i s).1 ho) hformat
  | some o => rw [exec_of_operation ho, operationOf_of_busy hs ho, Operation.outcome_refused]

/-! ### Valid arguments (42_operations.md R190) -/

theorem firstError_eq_none_iff {l : List (Bool × ErrKind)} : firstError l = none ↔ ∀ c ∈ l, c.1 = true := by
  induction l with
  | nil => simp [firstError]
  | cons c l ih =>
    obtain ⟨ok, k⟩ := c
    cases ok <;> simp [firstError, ih]

section Valid

variable {a n : Nat} {out : Bytes} {s : State}

theorem validateRead_eq_none_iff :
    validateRead a n s = none ↔ a ≤ Config.addrMax ∧ 1 ≤ n ∧ s.configured = true := by
  simp [validateRead, firstError_eq_none_iff, addressCheck, lengthCheck, configuredCheck]

theorem validateWrite_eq_none_iff :
    validateWrite a out s = none ↔ a ≤ Config.addrMax ∧ out ≠ [] ∧ s.configured = true := by
  simp [validateWrite, firstError_eq_none_iff, addressCheck, payloadCheck, configuredCheck, Nat.one_le_iff_ne_zero]

theorem validateExchange_eq_none_iff :
    validateExchange a out n s = none ↔
      a ≤ Config.addrMax ∧ out ≠ [] ∧ 1 ≤ n ∧ n ≤ Config.maxXchgRlen ∧ s.configured = true := by
  simp [validateExchange, firstError_eq_none_iff, addressCheck, payloadCheck, lengthCheck, boundCheck,
    configuredCheck, Nat.one_le_iff_ne_zero]

theorem validatePoll_eq_none_iff : validatePoll a s = none ↔ a ≤ Config.addrMax ∧ s.configured = true := by
  simp [validatePoll, firstError_eq_none_iff, addressCheck, configuredCheck]

theorem configuredCheck_eq_none_iff : firstError [configuredCheck s] = none ↔ s.configured = true := by
  simp [firstError_eq_none_iff, configuredCheck]

end Valid

/-! ### A send that never returns -/

/-- Where the send of `v` in `s` never returns. -/
def stalledSend (v : Bytes) (s : State) : State := hung (.sendCommands v) (s.setCe (s.ce.cutShort s.par v))

theorem roundTrip_stalled {s : State} (h : s.env.sends = []) (v : Bytes) (n budget : Nat)
    (k : Bytes → State → Proc PhaseOutcome) : (roundTrip v n budget s k).run = .stuck (stalledSend v s) :=
  Proc.run_andThen_of_stuck (memWrite_nil v h) _

theorem prolog_stalled {s : State} (h : s.env.sends = []) (ab : Byte) :
    (prolog ab s).run = .stuck (stalledSend (s.tpl.prologCmd ab) (s.setPhase .prolog)) :=
  roundTrip_stalled (s := s.setPhase .prolog) h _ _ _ _

/-- The address byte of the first prolog of an attempt (41_phases.md R168). -/
def firstAddressByte (s : State) : Byte :=
  match s.txn.op with
  | .read => s.txn.abR
  | .write | .exchange => s.txn.abW
  | .poll => pollByte s

/-- The first send of every body is that of its first prolog. -/
theorem body_stalled {s : State} (h : s.env.sends = []) :
    (body s).run = .stuck (stalledSend (s.tpl.prologCmd (firstAddressByte s)) (s.setPhase .prolog)) := by
  unfold body firstAddressByte
  cases s.txn.op with
  | read => exact Proc.run_andThen_of_stuck (prolog_stalled h _) _
  | write => exact Proc.run_andThen_of_stuck (prolog_stalled h _) _
  | exchange => exact Proc.run_andThen_of_stuck (prolog_stalled h _) _
  | poll => exact prolog_stalled h _

/-- Where the first send of an operation in `s` leaves the engine when it never returns. -/
def stalledProlog (s : State) : State :=
  stalledSend (s.tpl.prologCmd (firstAddressByte s)) ((s.setAttempt 1).setPhase .prolog)

theorem attempts_stalled {s : State} (h : s.env.sends = []) (budget : Nat) :
    (attempts (budget + 1) s).run = .stuck (stalledProlog s) :=
  Proc.run_andThen_of_stuck (Proc.run_andThen_of_stuck (body_stalled (s := s.setAttempt 1) h) _) _

theorem run_stalled {s : State} (h : s.env.sends = []) : (run s).run = .stuck (stalledProlog s) :=
  Proc.run_andThen_of_stuck (attempts_stalled h _) _

theorem runPoll_stalled {s : State} (h : s.env.sends = []) : (runPoll s).run = .stuck (stalledProlog s) :=
  Proc.run_andThen_of_stuck (attempts_stalled h _) _

/-- `flush` makes its one send at once (43_management.md R223). -/
theorem flushRun_stalled {s : State} (hc : s.configured = true) (h : s.env.sends = []) :
    (flushRun s).run = .stuck (stalledSend s.tpl.flush s) := by
  unfold flushRun
  rw [configuredCheck_eq_none_iff.2 hc]
  exact Proc.run_andThen_of_stuck (memWrite_nil _ h) _

/-- From `s` the engine got stuck in `t` at the send of `v`, with this `PHASE` and `ATTEMPT`: the call is outstanding
and recorded, there is no result, and no step (R78). -/
def StuckSending (s t : State) (v : Bytes) (p : Phase) (attempt : Nat) : Prop :=
  t.phase = p ∧ t.attempt = attempt ∧ t.pending = some (.sendCommands v) ∧
    t.calls = s.calls ++ [⟨.sendCommands v, p, attempt, .never⟩] ∧ t.responses = s.responses ∧
    step t = .fault .callNeverReturned

theorem stalledSend_stuck (v : Bytes) (s : State) : StuckSending s (stalledSend v s) v s.phase s.attempt :=
  ⟨rfl, rfl, rfl, rfl, rfl, step_of_pending rfl⟩

/-- The transaction registers written before the first prolog only choose its address byte. -/
theorem stalledProlog_stuck (s : State) (x : Transaction) {ab : Byte} (hab : firstAddressByte (s.setTxn x) = ab) :
    StuckSending s (stalledProlog (s.setTxn x)) (s.tpl.prologCmd ab) .prolog 1 :=
  hab ▸ stalledSend_stuck _ (((s.setTxn x).setAttempt 1).setPhase .prolog)

theorem firstAddressByte_poll (a : Nat) (s : State) :
    firstAddressByte (s.setTxn (pollTxn s.par.pollRw a s.txn)) = addressByte a s.par.pollRw := by
  cases h : s.par.pollRw <;> simp [firstAddressByte, pollByte, pollTxn, h]

section Starts

variable {a n : Nat} {out : Bytes} {s : State}

theorem readOp_of_valid (hs : s.free) (hv : validateRead a n s = none) (hc : 1 ≤ s.chunkSize) :
    readOp a n s = .running (run (s.setTxn { s.txn with op := .read, abR := addressByte a true, rlen := n })) := by
  rw [readOp, whenFree_of_free hs, hv, validated, needsChunks, if_pos hc]

theorem writeOp_of_valid (hs : s.free) (hv : validateWrite a out s = none) :
    writeOp a out s =
      .running (run (s.setTxn { s.txn with op := .write, abW := addressByte a false, out := out })) := by
  rw [writeOp, whenFree_of_free hs, hv, validated]

theorem exchangeOp_of_valid (hs : s.free) (hv : validateExchange a out n s = none) (hc : 1 ≤ s.chunkSize) :
    exchangeOp a out n s = .running (run (s.setTxn { s.txn with
      op := .exchange, abW := addressByte a false, abR := addressByte a true, out := out, rlen := n })) := by
  rw [exchangeOp, whenFree_of_free hs, hv, validated, needsChunks, if_pos hc]

theorem pollOp_of_valid (hs : s.free) (hv : validatePoll a s = none) :
    pollOp a s = .running (runPoll (s.setTxn (pollTxn s.par.pollRw a s.txn))) := by
  rw [pollOp, whenFree_of_free hs, hv, validated]

theorem flushHostOp_of_free (hs : s.free) : flushHostOp s = .running (flushRun s) := whenFree_of_free hs _

end Starts

/-- A host request whose procedure gets stuck leaves the engine there. -/
theorem exec_of_stuck {i : Instr} {s t : State} {o : Operation} {p : Proc Result} (ho : operationOf i s = some o)
    (hp : o = .running p) (hrun : p.run = .stuck t) : exec i s = .next t := by
  rw [exec_of_operation ho, hp, Operation.outcome_running, hrun, Run.outcome_stuck]

/-- A bus operation that has passed its checks is stuck in its first prolog. -/
theorem exec_stalled {i : Instr} {s : State} {o : Operation} {x : Transaction} {ab : Byte} (hsends : s.env.sends = [])
    (ho : operationOf i s = some o) (hp : o = .running (run (s.setTxn x)) ∨ o = .running (runPoll (s.setTxn x)))
    (hab : firstAddressByte (s.setTxn x) = ab) :
    ∃ t, exec i s = .next t ∧ StuckSending s t (s.tpl.prologCmd ab) .prolog 1 := by
  refine ⟨_, ?_, stalledProlog_stuck s x hab⟩
  rcases hp with hp | hp
  · exact exec_of_stuck ho hp (run_stalled hsends)
  · exact exec_of_stuck ho hp (runPoll_stalled hsends)

/-- Settles O58: the checks pass, and the first send of what then runs is the prolog's, or the flush's. -/
theorem stalledSendSticksTheEngine : Obligations.StalledSendSticksTheEngine := by
  rintro s a n out ⟨hfree, hconf, -⟩ ha hout hn hsends stuck prologOf
  refine ⟨fun hc => ?_, ?_, fun hc hmax => ?_, ?_, stalledSend s.tpl.flush s, ?_, ?_⟩
  · have hv := validateRead_eq_none_iff.2 ⟨ha, hn, hconf⟩
    exact exec_stalled hsends rfl (.inl (readOp_of_valid hfree hv hc)) rfl
  · have hv := validateWrite_eq_none_iff.2 ⟨ha, hout, hconf⟩
    exact exec_stalled hsends rfl (.inl (writeOp_of_valid hfree hv)) rfl
  · have hv := validateExchange_eq_none_iff.2 ⟨ha, hout, hn, hmax, hconf⟩
    exact exec_stalled hsends rfl (.inl (exchangeOp_of_valid hfree hv hc)) rfl
  · have hv := validatePoll_eq_none_iff.2 ⟨ha, hconf⟩
    exact exec_stalled hsends rfl (.inr (pollOp_of_valid hfree hv)) (firstAddressByte_poll a s)
  · exact exec_of_stuck rfl (flushHostOp_of_free hfree) (flushRun_stalled hconf hsends)
  · exact hfree.1 ▸ stalledSend_stuck s.tpl.flush s

/-! ### What is sent -/

theorem unitBuffer_unitsBytes {P : Params} (he : P.EncOk) {us : List CmdUnit} (h : us ≠ []) :
    UnitBuffer P (unitsBytes P us) := by
  refine ⟨by rw [unitsOf_unitsBytes he], fun hnil => h ?_⟩
  exact unitsBytes_injective he (hnil.trans (unitsBytes_nil P).symm)

/-! The buffers of the phases are unit sequences where the templates are built from the parameters (R75). -/

section Buffers

variable (P : Params)

theorem buildTemplates_wu (b : Byte) : (buildTemplates P).wu b = unitsBytes P (wuUnits b) := by
  simp [Templates.wu, buildTemplates, wuUnits, unitsBytes_cons, unitsBytes_nil, unitBytes]

theorem buildTemplates_prologCmd (ab : Byte) : (buildTemplates P).prologCmd ab = unitsBytes P (prologUnits ab) := by
  rw [Templates.prologCmd, prologUnits, buildTemplates_wu, unitsBytes_append, unitsBytes_cons]
  rfl

theorem buildTemplates_chunkMid (n : Nat) : (buildTemplates P).chunkMid n = unitsBytes P (chunkMidUnits n) :=
  (unitsBytes_rep P n ruAckUnits).symm

theorem buildTemplates_chunkLast (n : Nat) : (buildTemplates P).chunkLast n = unitsBytes P (chunkLastUnits n) := by
  simp [Templates.chunkLast, chunkLastUnits, unitsBytes_append, unitsBytes_rep, unitsBytes_cons, unitsBytes_nil,
    buildTemplates]

theorem buildTemplates_flush : (buildTemplates P).flush = unitsBytes P [.flush] := by
  simp [buildTemplates, unitsBytes_cons, unitsBytes_nil]

end Buffers

/-- A state in the midst of a transaction of kind `op`: the templates are built, a cached buffer is a `CHUNK_MID` of
the chunk size, an operation that reads has chunks of at least one byte, and all that was sent is units. -/
def State.Sending (op : BusOp) (s : State) : Prop :=
  s.par.EncOk ∧ s.tpl = buildTemplates s.par ∧
    (∀ v, mapGet s.chunkSize.toNat s.chunkCache = some v → v = s.tpl.chunkMid s.chunkSize.toNat) ∧
    s.txn.op = op ∧ (op = .read ∨ op = .exchange → 1 ≤ s.chunkSize) ∧ s.SendsUnits

/-- Where a configured engine starts a transaction. -/
theorem State.Inv.sending {s : State} (hs : s.Inv) (hc : s.configured = true) (hsent : s.SendsUnits) {x : Transaction}
    (hchunks : x.op = .read ∨ x.op = .exchange → 1 ≤ s.chunkSize) : (s.setTxn x).Sending x.op := by
  obtain ⟨hpar, -, -, hconfig, hcache⟩ := hs
  obtain ⟨-, henc, -⟩ := of_decide_eq_true hpar
  obtain ⟨-, hbuilt, -⟩ := hconfig hc
  refine ⟨henc, hbuilt, fun v hv => ?_, rfl, hchunks, hsent⟩
  simp only [State.setTxn_chunkSize, State.setTxn_chunkCache] at hv
  rcases hcache with hempty | hone
  · simp [hempty] at hv
  · simpa [hone, mapGet, Templates.chunkMid, eq_comm] using hv

/-- A call keeps `SendsUnits` where a buffer it sends is units. -/
theorem State.SendsUnits.record {s : State} (h : s.SendsUnits) {c : Call}
    (hc : ∀ v, c = .sendCommands v → UnitBuffer s.par v) (a : Answer) : (s.record c a).SendsUnits := by
  intro r hr
  rcases List.mem_append.1 hr with hr | hr
  · exact h r hr
  · obtain rfl := List.mem_singleton.1 hr
    cases c with
    | sendCommands v => exact hc v rfl
    | _ => trivial

section Transactions

variable {op : BusOp} {s : State}

theorem State.Sending.record (hs : s.Sending op) {c : Call} (hc : ∀ v, c = .sendCommands v → UnitBuffer s.par v)
    (a : Answer) : (s.record c a).Sending op := by
  obtain ⟨henc, hbuilt, hcache, hop, hchunks, hsends⟩ := hs
  exact ⟨henc, hbuilt, hcache, hop, hchunks, hsends.record hc a⟩

theorem State.Sending.sendsUnits (hs : s.Sending op) : s.SendsUnits := by
  obtain ⟨-, -, -, -, -, hsends⟩ := hs
  exact hsends

/-- A buffer taken from the built templates that is a sequence of units. -/
theorem State.Sending.unitBuffer (hs : s.Sending op) {f : Templates → Bytes} {us : List CmdUnit}
    (hf : f (buildTemplates s.par) = unitsBytes s.par us) (hus : us ≠ []) : UnitBuffer s.par (f s.tpl) := by
  obtain ⟨henc, hbuilt, -⟩ := hs
  rw [hbuilt, hf]
  exact unitBuffer_unitsBytes henc hus

/-! Each buffer of a phase is units. -/

theorem State.Sending.unitBuffer_prologCmd (hs : s.Sending op) (ab : Byte) : UnitBuffer s.par (s.tpl.prologCmd ab) :=
  hs.unitBuffer (f := (·.prologCmd ab)) (buildTemplates_prologCmd _ ab) (List.cons_ne_nil _ _)

theorem State.Sending.unitBuffer_wu (hs : s.Sending op) (b : Byte) : UnitBuffer s.par (s.tpl.wu b) :=
  hs.unitBuffer (f := (·.wu b)) (buildTemplates_wu _ b) (List.cons_ne_nil _ _)

theorem State.Sending.unitBuffer_stop (hs : s.Sending op) : UnitBuffer s.par s.tpl.stop :=
  hs.unitBuffer (f := (·.stop)) (us := stopUnits s.par) rfl (List.cons_ne_nil _ _)

theorem State.Sending.unitBuffer_chunkMid (hs : s.Sending op) {n : Nat} (hn : n ≠ 0) :
    UnitBuffer s.par (s.tpl.chunkMid n) := by
  obtain ⟨k, rfl⟩ := Nat.exists_eq_succ_of_ne_zero hn
  exact hs.unitBuffer (f := (·.chunkMid _)) (buildTemplates_chunkMid _ _) (List.cons_ne_nil _ _)

theorem State.Sending.unitBuffer_chunkLast (hs : s.Sending op) (n : Nat) : UnitBuffer s.par (s.tpl.chunkLast n) :=
  hs.unitBuffer (f := (·.chunkLast n)) (buildTemplates_chunkLast _ n) (by simp [chunkLastUnits])

@[simp] theorem cachedChunkMid_par (k : Nat) (s : State) : (cachedChunkMid k s).2.par = s.par := by
  unfold cachedChunkMid
  cases mapGet k s.chunkCache <;> rfl

/-- The cache gives the `CHUNK_MID` of the chunk size, and holds it afterwards. -/
theorem State.Sending.after_cachedChunkMid (hs : s.Sending op) :
    (cachedChunkMid s.chunkSize.toNat s).1 = s.tpl.chunkMid s.chunkSize.toNat ∧
      (cachedChunkMid s.chunkSize.toNat s).2.Sending op := by
  have ⟨henc, hbuilt, hcache, hop, hchunks, hsends⟩ := hs
  unfold cachedChunkMid
  cases hget : mapGet s.chunkSize.toNat s.chunkCache with
  | some v => exact ⟨hcache v hget, hs⟩
  | none =>
    refine ⟨rfl, henc, hbuilt, fun v hv => ?_, hop, hchunks, hsends⟩
    simpa [eq_comm] using hv

/-- In an operation that reads, every chunk that remains is sent as units. -/
theorem State.Sending.after_nextChunk (hs : s.Sending op) (hread : op = .read ∨ op = .exchange) :
    (nextChunk s).2.2.Sending op ∧ UnitBuffer (nextChunk s).2.2.par (nextChunk s).2.1 := by
  have ⟨_, _, _, _, hchunks, _⟩ := hs
  have hsize := hchunks hread
  unfold nextChunk
  split
  · obtain ⟨hbuffer, hafter⟩ := hs.after_cachedChunkMid
    have hunits := hs.unitBuffer_chunkMid (n := s.chunkSize.toNat) (by omega)
    exact ⟨hafter, by rwa [hbuffer, cachedChunkMid_par]⟩
  · exact ⟨hs, hs.unitBuffer_chunkLast _⟩

/-- Whatever the environment answers, all the procedure sends is units, and it returns in the midst of its
transaction. -/
def Proc.Sends {α : Type} (op : BusOp) (p : Proc α) : Prop := p.Ensures (fun _ t => t.Sending op) State.SendsUnits

theorem Proc.Sends.andThen {α β : Type} {p : Proc α} {f : α → State → Proc β} (h : p.Sends op)
    (hf : ∀ a t, t.Sending op → (f a t).Sends op) : (p.andThen f).Sends op :=
  Proc.Ensures.andThen h hf

theorem memWrite_sends (hs : s.Sending op) {v : Bytes} (hv : UnitBuffer s.par v) : (memWrite v s).Sends op := by
  have hcall : ∀ w, Call.sendCommands v = .sendCommands w → UnitBuffer s.par w := by rintro _ ⟨⟩; exact hv
  rcases memWrite_cases v s with ⟨ok, rest, -, hrun⟩ | ⟨-, hrun⟩
  · exact (Proc.ensures_of_run_done hrun).2 (State.Sending.record (s := (s.setEnv _).setCe _) hs hcall _)
  · exact (Proc.ensures_of_run_stuck hrun).2 (State.SendsUnits.record (s := s.setCe _) hs.sendsUnits hcall _)

theorem memRead_sends (hs : s.Sending op) (n budget : Nat) : (memRead n budget s).Sends op := by
  rcases memRead_cases n budget s with ⟨r, rest, -, hrun⟩ | ⟨-, hrun⟩
  · exact (Proc.ensures_of_run_done hrun).2 (State.Sending.record (s := (s.setEnv _).setCe _) hs (by nofun) _)
  · exact (Proc.ensures_of_run_stuck hrun).2 (hs.sendsUnits.record (by nofun) _)

theorem roundTrip_sends (hs : s.Sending op) {v : Bytes} (hv : UnitBuffer s.par v) {n budget : Nat}
    {k : Bytes → State → Proc PhaseOutcome} (hk : ∀ r t, t.Sending op → (k r t).Sends op) :
    (roundTrip v n budget s k).Sends op :=
  (memWrite_sends hs hv).andThen fun ok t ht => by
    cases ok with
    | true => exact (memRead_sends ht n budget).andThen hk
    | false => exact ht

theorem ackTest_sends (hs : s.Sending op) (r : Bytes) : (ackTest r s).Sends op := by
  cases r <;> exact hs

theorem prolog_sends (hs : s.Sending op) (ab : Byte) : (prolog ab s).Sends op :=
  roundTrip_sends (s := s.setPhase .prolog) hs (hs.unitBuffer_prologCmd ab) fun r _ ht => ackTest_sends ht r

theorem epilog_sends (hs : s.Sending op) : (epilog s).Sends op :=
  roundTrip_sends (s := s.setPhase .epilog) hs hs.unitBuffer_stop fun _ _ ht => ht

theorem writeBytes_sends (out : Bytes) (hs : s.Sending op) : (writeBytes out s).Sends op := by
  induction out generalizing s with
  | nil => exact hs
  | cons b out ih =>
    refine roundTrip_sends hs (hs.unitBuffer_wu b) fun r t ht => (ackTest_sends ht r).andThen fun o u hu => ?_
    cases o with
    | acked d => exact ih hu
    | nack => exact hu
    | transport => exact hu

theorem writePhase_sends (out : Bytes) (hs : s.Sending op) : (writePhase out s).Sends op :=
  writeBytes_sends (s := s.setPhase .payload) out hs

theorem readChunks_sends (hread : op = .read ∨ op = .exchange) (fuel : Nat) (hs : s.Sending op) :
    (readChunks fuel s).Sends op := by
  induction fuel generalizing s with
  | zero => exact hs
  | succ fuel ih =>
    unfold readChunks
    split
    · exact hs
    · obtain ⟨hnext, hbuffer⟩ := hs.after_nextChunk hread
      refine roundTrip_sends hnext hbuffer fun r t ht => ?_
      split
      · exact ht
      · exact ih (s := takeChunk _ r t) ht

theorem readPhase_sends (hread : op = .read ∨ op = .exchange) (n : Nat) (hs : s.Sending op) :
    (readPhase n s).Sends op :=
  readChunks_sends (s := (s.setPhase .payload).setTxn { s.txn with rem := n, rbuf := [] }) hread n hs

theorem ifAcked_sends {p : Proc PhaseOutcome} {k : State → Proc PhaseOutcome} (h : p.Sends op)
    (hk : ∀ t, t.Sending op → (k t).Sends op) : (ifAcked p k).Sends op :=
  h.andThen fun o t ht => by
    cases o with
    | acked d => exact hk t ht
    | nack => exact ht
    | transport => exact ht

/-- Only an operation that reads has a read phase. -/
theorem body_sends (hs : s.Sending op) : (body s).Sends op := by
  have ⟨_, _, _, hop, _, _⟩ := hs
  unfold body
  rw [hop]
  cases op with
  | read => exact ifAcked_sends (prolog_sends hs _) fun t ht => readPhase_sends (.inl rfl) _ ht
  | write => exact ifAcked_sends (prolog_sends hs _) fun t ht => writePhase_sends _ ht
  | exchange =>
    exact ifAcked_sends (prolog_sends hs _) fun t ht =>
      ifAcked_sends (writePhase_sends _ ht) fun u hu =>
        ifAcked_sends (prolog_sends hu _) fun v hv => readPhase_sends (.inr rfl) _ hv
  | poll => exact prolog_sends hs _

theorem attemptOnce_sends (hs : s.Sending op) : (attemptOnce s).Sends op :=
  (body_sends hs).andThen fun b t ht => (epilog_sends ht).andThen fun e u hu => by
    show (settleRead (attemptOutcome b e) u).Sending op
    cases attemptOutcome b e <;> exact hu

theorem attemptsFuel_sends (budget fuel : Nat) (hs : s.Sending op) : (attemptsFuel budget fuel s).Sends op := by
  induction fuel generalizing s with
  | zero => exact hs
  | succ fuel ih =>
    refine (attemptOnce_sends hs).andThen fun o t ht => ?_
    split
    · exact ih (s := t.setAttempt _) ht
    · exact ht

theorem attempts_sends (budget : Nat) (hs : s.Sending op) : (attempts budget s).Sends op :=
  attemptsFuel_sends (s := s.setAttempt 1) budget budget hs

end Transactions

/-! ### What a host request sends -/

/-- Whatever the environment answers, all that was sent when the procedure has come out is units. -/
def Proc.EndsUnits {α : Type} (p : Proc α) : Prop := p.Ensures (fun _ t => t.SendsUnits) State.SendsUnits

theorem Proc.EndsUnits.andThen {α β : Type} {p : Proc α} {f : α → State → Proc β} (h : p.EndsUnits)
    (hf : ∀ a t, t.SendsUnits → (f a t).EndsUnits) : (p.andThen f).EndsUnits :=
  Proc.Ensures.andThen h hf

theorem Proc.Sends.endsUnits {α : Type} {op : BusOp} {p : Proc α} (h : p.Sends op) : p.EndsUnits :=
  h.mono (fun _ _ ht => ht.sendsUnits) fun _ => id

theorem run_endsUnits {op : BusOp} {s : State} (hs : s.Sending op) : (run s).EndsUnits :=
  (attempts_sends _ hs).endsUnits.andThen fun _ _ ht => ht

theorem runPoll_endsUnits {op : BusOp} {s : State} (hs : s.Sending op) : (runPoll s).EndsUnits :=
  (attempts_sends _ hs).endsUnits.andThen fun _ _ ht => ht

/-- One call, and nothing after its answer. -/
theorem Proc.call_endsUnits {α : Type} {s : State} (h : s.SendsUnits) {c : Call}
    (hc : ∀ v, c = .sendCommands v → UnitBuffer s.par v) (f : Answer → α) :
    (Proc.call c s fun a t => .done (f a) t).EndsUnits := by
  cases hp : perform c s with
  | none =>
    exact (Proc.ensures_of_run_stuck (Proc.run_call_of_none hp _)).2
      (State.SendsUnits.record (s := s.setCe _) h hc _)
  | some r =>
    obtain ⟨a, t⟩ := r
    obtain ⟨-, ht⟩ := perform_frame hp
    exact (Proc.ensures_of_run_done (Proc.run_call_of_some hp _)).2 (ht ▸ h.record hc a)

section Requests

variable {s : State}

theorem configureRun_endsUnits (h : s.SendsUnits) (f : Freq) (z : Bool) : (configureRun f z s).EndsUnits :=
  (Proc.call_endsUnits h (by nofun) _).andThen fun c t ht => by
    cases c with
    | none => exact ht
    | some caps =>
      refine (Proc.call_endsUnits ht (by nofun) _).andThen fun _ t ht =>
        (Proc.call_endsUnits ht (by nofun) _).andThen fun _ t ht =>
          (Proc.call_endsUnits ht (by nofun) _).andThen fun w t ht => ?_
      split
      · exact (Proc.call_endsUnits ht (by nofun) _).andThen fun _ t ht => ht
      · exact ht

theorem terminateRun_endsUnits (h : s.SendsUnits) : (terminateRun s).EndsUnits := by
  unfold terminateRun
  split
  · exact (Proc.call_endsUnits h (by nofun) _).andThen fun _ t ht => ht
  · exact h

theorem getSlaveRun_endsUnits (h : s.SendsUnits) (a : Nat) : (getSlaveRun a s).EndsUnits := by
  unfold getSlaveRun
  split
  · exact h
  · split <;> exact h

/-- `flush` sends its one unit as the configuration built it (43_management.md R223). -/
theorem flushRun_endsUnits (hs : s.Inv) (h : s.SendsUnits) : (flushRun s).EndsUnits := by
  unfold flushRun
  split
  · exact h
  · next hvalid =>
    obtain ⟨hpar, -, -, hconfig, -⟩ := hs
    obtain ⟨-, henc, -⟩ := of_decide_eq_true hpar
    obtain ⟨-, hbuilt, -⟩ := hconfig (configuredCheck_eq_none_iff.1 hvalid)
    have hunits : UnitBuffer s.par s.tpl.flush := by
      rw [hbuilt, buildTemplates_flush]
      exact unitBuffer_unitsBytes henc (List.cons_ne_nil _ _)
    refine (Proc.call_endsUnits h (by rintro _ ⟨⟩; exact hunits) _).andThen fun ok t ht => ?_
    split <;> exact ht

/-- What runs behind a validation runs only where it passes (42_operations.md R190). -/
theorem validated_endsUnits (h : s.SendsUnits) {e : Option ErrKind} {k : Operation}
    (hk : e = none → k.Runs Proc.EndsUnits) : (validated e s k).Runs Proc.EndsUnits := by
  cases e with
  | none => exact hk rfl
  | some kind => exact h

theorem readOp_endsUnits (hs : s.Inv) (h : s.SendsUnits) (a n : Nat) : (readOp a n s).Runs Proc.EndsUnits :=
  whenFree_runs <| validated_endsUnits h fun hv => needsChunks_runs_pos fun hsize => by
    obtain ⟨-, -, hc⟩ := validateRead_eq_none_iff.1 hv
    exact run_endsUnits (hs.sending hc h fun _ => hsize)

theorem writeOp_endsUnits (hs : s.Inv) (h : s.SendsUnits) (a : Nat) (out : Bytes) :
    (writeOp a out s).Runs Proc.EndsUnits :=
  whenFree_runs <| validated_endsUnits h fun hv => by
    obtain ⟨-, -, hc⟩ := validateWrite_eq_none_iff.1 hv
    exact run_endsUnits (hs.sending hc h nofun)

theorem exchangeOp_endsUnits (hs : s.Inv) (h : s.SendsUnits) (a : Nat) (out : Bytes) (n : Nat) :
    (exchangeOp a out n s).Runs Proc.EndsUnits :=
  whenFree_runs <| validated_endsUnits h fun hv => needsChunks_runs_pos fun hsize => by
    obtain ⟨-, -, -, -, hc⟩ := validateExchange_eq_none_iff.1 hv
    exact run_endsUnits (hs.sending hc h fun _ => hsize)

theorem pollTxn_op (pollRw : Bool) (a : Nat) (x : Transaction) : (pollTxn pollRw a x).op = .poll := by
  cases pollRw <;> rfl

theorem pollOp_endsUnits (hs : s.Inv) (h : s.SendsUnits) (a : Nat) : (pollOp a s).Runs Proc.EndsUnits :=
  whenFree_runs <| validated_endsUnits h fun hv => by
    obtain ⟨-, hc⟩ := validatePoll_eq_none_iff.1 hv
    exact runPoll_endsUnits (hs.sending hc h (by simp [pollTxn_op]))

theorem flushHostOp_endsUnits (hs : s.Inv) (h : s.SendsUnits) : (flushHostOp s).Runs Proc.EndsUnits :=
  whenFree_runs (flushRun_endsUnits hs h)

/-! The two handle writers make no call. -/

theorem sConfigureRegisterOp_endsUnits (h : s.SendsUnits) (key : Nat) (big : Bool) (width : Nat) :
    (sConfigureRegisterOp key big width s).Runs Proc.EndsUnits :=
  withHandle_runs fun _ _ => by split <;> exact h

theorem sShiftAddressOp_endsUnits (h : s.SendsUnits) (key offset : Nat) :
    (sShiftAddressOp key offset s).Runs Proc.EndsUnits :=
  withHandle_runs fun _ _ => by split <;> exact h

/-- Whatever a host request starts sends units. -/
theorem operationOf_endsUnits (hs : s.Inv) (h : s.SendsUnits) {i : Instr} {o : Operation}
    (ho : operationOf i s = some o) : o.Runs Proc.EndsUnits := by
  cases i <;> cases ho
  case configure f z => exact whenFree_runs (configureRun_endsUnits h f z)
  case terminate => exact whenFree_runs (terminateRun_endsUnits h)
  case getSlave a => exact whenFree_runs (getSlaveRun_endsUnits h a)
  case read a n => exact readOp_endsUnits hs h a n
  case write a out => exact writeOp_endsUnits hs h a out
  case exchange a out n => exact exchangeOp_endsUnits hs h a out n
  case poll a => exact pollOp_endsUnits hs h a
  case flushOp => exact flushHostOp_endsUnits hs h
  case frequency => exact whenFree_runs h
  case frequencyMax => exact whenFree_runs h
  case sConfigureRegister key big width => exact sConfigureRegisterOp_endsUnits h key big width
  case sShiftAddress key offset => exact sShiftAddressOp_endsUnits h key offset
  case sReadFrom key a n =>
    exact withHandle_runs fun g _ => withPrefix_runs fun p => exchangeOp_endsUnits hs h g.ea p n
  case sWriteTo key a out =>
    exact withHandle_runs fun g _ => withPrefix_runs fun p => writeOp_endsUnits hs h g.ea (p ++ out)
  case sRead key n => exact withHandle_runs fun g _ => readOp_endsUnits hs h g.ea n
  case sWrite key out => exact withHandle_runs fun g _ => writeOp_endsUnits hs h g.ea out
  case sExchange key out n => exact withHandle_runs fun g _ => exchangeOp_endsUnits hs h g.ea out n
  case sPoll key => exact withHandle_runs fun g _ => pollOp_endsUnits hs h g.ea
  case sFlush key => exact withHandle_runs fun _ _ => flushHostOp_endsUnits hs h

end Requests

theorem exec_keeps_sendsUnits {i : Instr} {s t : State} (hs : s.Inv) (hsent : s.SendsUnits)
    (h : exec i s = .next t) : t.SendsUnits := by
  cases ho : operationOf i s with
  | none =>
    obtain ⟨c, hc⟩ := exec_of_command ((operationOf_eq_none_iff i s).1 ho) s
    cases hc.symm.trans h
    exact hsent
  | some o =>
    obtain ⟨p, hp, hout⟩ := exec_next_of_runs ho (operationOf_endsUnits hs hsent ho) h
    rcases Run.outcome_next hout with ⟨r, u, hu, rfl⟩ | hstuck
    · exact (Proc.ensures_of_run_done hu).1 hp
    · exact (Proc.ensures_of_run_stuck hstuck).1 hp

/-- Settles O4: the buffers of a configured engine are its templates' unit sequences, and a chunk has a unit because
an operation reads only where `CHUNK_SIZE ≥ 1`. -/
theorem everyBufferSentIsUnits : Obligations.EveryBufferSentIsUnits := by
  intro s t hs hsent h
  rcases step_next h with rfl | ⟨i, rest, hexec⟩
  · exact hsent
  · exact exec_keeps_sendsUnits (s := s.setRequests rest) hs hsent hexec

end Sys2Proof.Machine
end

section
/-! PROOFS. The encoding family (spec/30_encoding.md): decoding and encoding are inverse (R91 to R97), templates are
their expansions (R97), what the units and templates put on the bus (R93, R95), and the handle's register address
(R102, R99). -/

namespace Sys2Proof

open Machine

/-! ### The address byte (R93) -/

/-- `AB(a, rw)` is the seven address bits above the direction bit. -/
theorem addressByte_eq_append (a : BitVec 7) (r : Bool) : addressByte a.toNat r = a ++ BitVec.ofBool r := by
  refine BitVec.eq_of_toNat_eq ?_
  rw [BitVec.toNat_append, ← Nat.shiftLeft_add_eq_or_of_lt (BitVec.ofBool r).isLt, BitVec.toNat_ofBool, addressByte,
    BitVec.toNat_ofNat, Nat.shiftLeft_eq]
  have := a.isLt
  have := r.toNat_lt
  omega

/-- A byte is the address byte of its fields. -/
theorem addressByte_of_fields (b : Byte) : addressByte (b.extractLsb' 1 7).toNat (b.getLsbD 0) = b := by
  have hbit : BitVec.ofBool (b.getLsbD 0) = b.extractLsb' 0 1 := by
    ext i hi
    simp [Nat.lt_one_iff.1 hi]
  have hsplit : b.extractLsb' 1 7 ++ b.extractLsb' 0 1 = b.extractLsb' 0 8 :=
    BitVec.extractLsb'_append_extractLsb'_eq_extractLsb' rfl
  rw [addressByte_eq_append, hbit, hsplit, BitVec.extractLsb'_eq_self]

/-- The fields of an address byte are what it was made of. -/
theorem addressByte_fields (a : BitVec 7) (r : Bool) :
    (addressByte a.toNat r).extractLsb' 1 7 = a ∧ (addressByte a.toNat r).getLsbD 0 = r := by
  rw [addressByte_eq_append]
  exact ⟨BitVec.extractLsb'_append_eq_left, by rw [BitVec.getLsbD_append]; simp⟩

/-! ### What the parsers of the layout do not match -/

theorem dropPrefix_cons_ne {p b : Byte} (h : p ≠ b) (ps bs : Bytes) : dropPrefix (p :: ps) (b :: bs) = none :=
  if_neg h

theorem dropPrefix_of_length_lt {p bs : Bytes} (h : bs.length < p.length) : dropPrefix p bs = none := by
  cases hd : dropPrefix p bs with
  | none => rfl
  | some rest =>
    rw [dropPrefix_eq_some.1 hd, List.length_append] at h
    omega

theorem parseProlog_of_length_lt {bs : Bytes} (h : bs.length < prologHead.length) : parseProlog bs = none := by
  rw [parseProlog, dropPrefix_of_length_lt h]

theorem parseProlog_of_head_ne {b : Byte} (h : 0x80 ≠ b) (bs : Bytes) : parseProlog (b :: bs) = none := by
  have : dropPrefix prologHead (b :: bs) = none := dropPrefix_cons_ne h _ _
  rw [parseProlog, this]

theorem parseReadUnits_of_head_ne {b : Byte} (h : 0x20 ≠ b) (bs : Bytes) : parseReadUnits (b :: bs) = none := by
  have hack : dropPrefix ruAckBytes (b :: bs) = none := dropPrefix_cons_ne h _ _
  have hlast : dropPrefix (ruNackBytes ++ unitBytes Config.params .flush) (b :: bs) = none := dropPrefix_cons_ne h _ _
  have hnack : dropPrefix ruNackBytes (b :: bs) = none := dropPrefix_cons_ne h _ _
  simp only [parseReadUnits, List.length_cons, countAcks, hack, hlast, hnack, Option.map_none]

theorem parseWu_of_head_ne {b : Byte} (h : 0x11 ≠ b) (bs : Bytes) : parseWu (b :: bs) = none := by
  have : dropPrefix Config.enc.writeByte (b :: bs) = none := dropPrefix_cons_ne h _ _
  rw [parseWu, this]

/-! ### HOST and SLAVE requests -/

theorem parse_hostBytes {op : Nat} (h : op < 0x10) (args : Bytes) : parse (hostBytes op args) = parseHost op args := by
  have hop : (BitVec.ofNat 8 op).toNat = op := by rw [BitVec.toNat_ofNat]; omega
  simp [parse, hostBytes, formatOf, hop, h]

theorem parse_slaveBytes {sop : Nat} (h : sop < 0x10) (args : Bytes) :
    parse (slaveBytes sop args) = parseSlave sop args := by
  have hop : (BitVec.ofNat 8 (slaveTag + sop)).toNat = 0x40 + sop := by rw [BitVec.toNat_ofNat, slaveTag]; omega
  have hhost : ¬0x40 + sop < 0x10 := by omega
  have hslave : 0x40 ≤ 0x40 + sop ∧ 0x40 + sop < 0x50 := by omega
  simp only [parse, slaveBytes, formatOf, hop, if_neg hhost, if_pos hslave]
  rw [slaveTag, Nat.add_sub_cancel_left]

theorem hostBytes_append (op : Nat) (args rest : Bytes) : hostBytes op args ++ rest = hostBytes op (args ++ rest) := rfl

theorem slaveBytes_append (sop : Nat) (args rest : Bytes) :
    slaveBytes sop args ++ rest = slaveBytes sop (args ++ rest) := rfl

/-- The arguments of a `HOST` request are read back one after another. -/
theorem parse_encode_host {i : Instr} (h : i.format = .host) (rest : Bytes) :
    parse (encode i ++ rest) = some (i, rest) := by
  cases i <;> cases h
  all_goals simp [encode, hostBytes_append, parse_hostBytes, parseHost]

theorem parse_encode_slave {i : Instr} (h : i.format = .slave) (rest : Bytes) :
    parse (encode i ++ rest) = some (i, rest) := by
  cases i <;> cases h
  all_goals simp [encode, slaveBytes_append, parse_slaveBytes, parseSlave]

theorem parseHost_format {op : Nat} {bs rest : Bytes} {i : Instr} (h : parseHost op bs = some (i, rest)) :
    i.format = .host := by
  unfold parseHost at h
  split at h <;> grind [Instr.format, Option.map_eq_some_iff]

theorem parseSlave_format {op : Nat} {bs rest : Bytes} {i : Instr} (h : parseSlave op bs = some (i, rest)) :
    i.format = .slave := by
  unfold parseSlave at h
  split at h <;> grind [Instr.format, Option.map_eq_some_iff]

/-! ### Encodings of templates, from their parts -/

theorem encode_prologCmd (a : BitVec 7) (r : Bool) :
    encode (.prologCmd a r) = prologHead ++ addressByte a.toNat r :: ackTail := rfl

theorem encode_wu (b : Byte) : encode (.wu b) = Config.enc.writeByte ++ b :: ackTail := rfl

theorem encode_chunkMid (n : Nat) : encode (.chunkMid n) = rep n ruAckBytes :=
  unitsBytes_rep Config.params n ruAckUnits

theorem encode_chunkLast (n : Nat) :
    encode (.chunkLast (n + 1)) = rep n ruAckBytes ++ (ruNackBytes ++ unitBytes Config.params .flush) := by
  simp only [encode, chunkLastUnits, unitsBytes_append, unitsBytes_rep, Nat.add_sub_cancel, List.append_assoc]
  rfl

theorem encode_pinSetInstr (v d : Byte) : encode (pinSetInstr v d) = [0x80, v, d] := by
  unfold pinSetInstr
  split <;> rfl

theorem encode_unitInstr (u : CmdUnit) : encode (unitInstr u) = unitBytes Config.params u := by
  cases u <;> rfl

/-! ### What a command parser read stands at the front, encoded -/

theorem parseProlog_eq_some {bs rest : Bytes} {i : Instr} (h : parseProlog bs = some (i, rest)) :
    bs = encode i ++ rest := by
  unfold parseProlog at h
  split at h
  · next ab r hhead =>
    obtain ⟨r', htail, heq⟩ := Option.map_eq_some_iff.1 h
    cases heq
    rw [dropPrefix_eq_some.1 hhead, dropPrefix_eq_some.1 htail, encode_prologCmd, addressByte_of_fields]
    simp
  · cases h

theorem parseWu_eq_some {bs rest : Bytes} {i : Instr} (h : parseWu bs = some (i, rest)) : bs = encode i ++ rest := by
  unfold parseWu at h
  split at h
  · next b r hhead =>
    obtain ⟨r', htail, heq⟩ := Option.map_eq_some_iff.1 h
    cases heq
    rw [dropPrefix_eq_some.1 hhead, dropPrefix_eq_some.1 htail, encode_wu]
    simp
  · cases h

theorem parsePinSet_eq_some {bs rest : Bytes} {i : Instr} (h : parsePinSet bs = some (i, rest)) :
    bs = encode i ++ rest := by
  unfold parsePinSet at h
  split at h
  · next v d r hhead =>
    cases h
    rw [dropPrefix_eq_some.1 hhead, encode_pinSetInstr]
    rfl
  · cases h

theorem countAcks_eq (fuel : Nat) (bs : Bytes) :
    bs = rep (countAcks fuel bs).1 ruAckBytes ++ (countAcks fuel bs).2 := by
  induction fuel generalizing bs with
  | zero => rfl
  | succ fuel ih =>
    unfold countAcks
    split
    · next r hr =>
      rw [dropPrefix_eq_some.1 hr]
      conv_lhs => rw [ih r]
      simp [rep, List.replicate_succ]
    · rfl

theorem parseReadUnits_eq_some {bs rest : Bytes} {i : Instr} (h : parseReadUnits bs = some (i, rest)) :
    bs = encode i ++ rest := by
  have hacks := countAcks_eq bs.length bs
  unfold parseReadUnits at h
  rw [hacks]
  generalize countAcks bs.length bs = acks at h ⊢
  obtain ⟨k, r⟩ := acks
  dsimp only at h ⊢
  split at h
  · next r' hlast =>
    cases h
    rw [dropPrefix_eq_some.1 hlast, encode_chunkLast]
    simp only [List.append_assoc]
  · split at h
    · obtain ⟨r', hnack, heq⟩ := Option.map_eq_some_iff.1 h
      cases heq
      exact dropPrefix_eq_some.1 hnack
    · cases h
      rfl
    · cases h
      rw [encode_chunkMid]

theorem takeData_eq_some {bs rest : Bytes} {u : CmdUnit} (h : takeData bs = some (u, rest)) :
    ∃ b, u = .writeByte b ∧ bs = b :: rest := by
  cases bs with
  | nil => cases h
  | cons b bs => cases h; exact ⟨b, rfl, rfl⟩

/-- A unit that was read stands at the front, whatever the encoding. -/
theorem parseUnit_eq_some {P : Params} {bs rest : Bytes} {u : CmdUnit} (h : parseUnit P bs = some (u, rest)) :
    bs = unitBytes P u ++ rest := by
  rcases Option.or_eq_some_iff.1 h with hfixed | ⟨-, hwrite⟩
  · obtain ⟨w, -, hw⟩ := List.exists_of_findSome?_eq_some hfixed
    obtain ⟨r, hr, heq⟩ := Option.map_eq_some_iff.1 hw
    cases heq
    exact dropPrefix_eq_some.1 hr
  · obtain ⟨r, hr, hdata⟩ := Option.bind_eq_some_iff.1 hwrite
    obtain ⟨b, rfl, rfl⟩ := takeData_eq_some hdata
    rw [dropPrefix_eq_some.1 hr, unitBytes_writeByte, List.append_assoc]
    rfl

theorem parseCommand_eq_some {bs rest : Bytes} {i : Instr} (h : parseCommand bs = some (i, rest)) :
    bs = encode i ++ rest := by
  simp only [parseCommand, Option.or_eq_some_iff, Option.map_eq_some_iff, Prod.mk.injEq, Prod.exists] at h
  rcases h with h | ⟨-, ⟨r, h, rfl, rfl⟩ | ⟨-, ⟨r, h, rfl, rfl⟩ | ⟨-, h | ⟨-, h | ⟨-, h | ⟨-, u, r, h, rfl, rfl⟩⟩⟩⟩⟩⟩
  · exact parseProlog_eq_some h
  · exact dropPrefix_eq_some.1 h
  · exact dropPrefix_eq_some.1 h
  · exact parseReadUnits_eq_some h
  · exact parseWu_eq_some h
  · exact parsePinSet_eq_some h
  · rw [encode_unitInstr]
    exact parseUnit_eq_some h

theorem parseCommand_of_parse {bs rest : Bytes} {i : Instr} (hi : i.format = .command) (h : parse bs = some (i, rest)) :
    parseCommand bs = some (i, rest) := by
  unfold parse at h
  split at h
  · cases h
  · split at h
    · rw [parseHost_format h] at hi
      cases hi
    · rw [parseSlave_format h] at hi
      cases hi
    · exact h

theorem all_eq_zero_iff {bs : Bytes} : bs.all (· == 0) = true ↔ ∃ k, bs = List.replicate k 0 := by
  constructor
  · intro h
    exact ⟨bs.length, List.eq_replicate_iff.2 ⟨rfl, by simpa using h⟩⟩
  · rintro ⟨k, rfl⟩
    simp

/-- A request decodes to the well-formed instruction at its front where only padding stands behind it. -/
theorem decode_eq_some_iff {bs : Bytes} {i : Instr} :
    decode bs = some i ↔ (∃ k, parse bs = some (i, List.replicate k 0)) ∧ i.wellFormed = true := by
  unfold decode
  constructor
  · intro h
    split at h
    · next j rest hp =>
      split_ifs at h with hok
      cases h
      obtain ⟨hpad, hwf⟩ := (Bool.and_eq_true_iff).1 hok
      obtain ⟨k, rfl⟩ := all_eq_zero_iff.1 hpad
      exact ⟨⟨k, hp⟩, hwf⟩
    · cases h
  · rintro ⟨⟨k, hp⟩, hwf⟩
    rw [hp]
    exact if_pos (Bool.and_eq_true_iff.2 ⟨all_eq_zero_iff.2 ⟨k, rfl⟩, hwf⟩)

/-- Settles O9: each parser of a command took its instruction's encoding from the front, and what stands behind is
padding. -/
theorem commandBytesHaveOneMeaning : Obligations.CommandBytesHaveOneMeaning := by
  intro bs i hi h
  obtain ⟨⟨k, hp⟩, -⟩ := decode_eq_some_iff.1 h
  exact ⟨k, parseCommand_eq_some (parseCommand_of_parse hi hp)⟩

/-! ### What a command parser makes of an encoding -/

theorem countAcks_rep {r : Bytes} (hr : dropPrefix ruAckBytes r = none) {k fuel : Nat} (h : k ≤ fuel) :
    countAcks fuel (rep k ruAckBytes ++ r) = (k, r) := by
  induction k generalizing fuel with
  | zero =>
    cases fuel with
    | zero => rfl
    | succ fuel => simp [rep, countAcks, hr]
  | succ k ih =>
    obtain ⟨fuel, rfl⟩ := Nat.exists_eq_add_of_lt h
    have hcons : rep (k + 1) ruAckBytes ++ r = ruAckBytes ++ (rep k ruAckBytes ++ r) := by
      simp [rep, List.replicate_succ]
    simp [hcons, countAcks, ih]

theorem le_length_rep_ruAckBytes (n : Nat) (r : Bytes) : n ≤ (rep n ruAckBytes ++ r).length := by
  have hunit : 1 ≤ ruAckBytes.length := by decide
  rw [List.length_append, length_rep]
  exact (Nat.le_mul_of_pos_right n hunit).trans (Nat.le_add_right _ _)

theorem parseReadUnits_chunkMid (n : Nat) :
    parseReadUnits (encode (.chunkMid (n + 2))) = some (.chunkMid (n + 2), []) := by
  have hacks := countAcks_rep (r := []) rfl (le_length_rep_ruAckBytes (n + 2) [])
  rw [List.append_nil] at hacks
  rw [encode_chunkMid, parseReadUnits, hacks]
  rfl

theorem parseReadUnits_chunkLast (n : Nat) :
    parseReadUnits (encode (.chunkLast (n + 1))) = some (.chunkLast (n + 1), []) := by
  rw [encode_chunkLast, parseReadUnits, countAcks_rep rfl (le_length_rep_ruAckBytes n _)]
  rfl

/-! ### Which parser of a command is the first to match -/

/-- A read unit begins no other template. -/
theorem parseCommand_of_readUnits {bs rest : Bytes} {i : Instr} (hhead : bs.head? = some 0x20)
    (h : parseReadUnits bs = some (i, rest)) : parseCommand bs = some (i, rest) := by
  obtain ⟨tail, rfl⟩ := List.head?_eq_some_iff.1 hhead
  have hstop : dropPrefix stopBytes (0x20 :: tail) = none := dropPrefix_cons_ne (by decide) _ _
  have hstart : dropPrefix startBytes (0x20 :: tail) = none := dropPrefix_cons_ne (by decide) _ _
  rw [parseCommand, parseProlog_of_head_ne (by decide), hstop, hstart, h]
  rfl

/-- Three bytes are too short for a template that begins with a pin set. -/
theorem parseCommand_pinSet (v d : Byte) : parseCommand [0x80, v, d] = some (pinSetInstr v d, []) := by
  have hprolog : 3 < prologHead.length := by decide
  have hstop : 3 < stopBytes.length := by decide
  have hstart : 3 < startBytes.length := by decide
  rw [parseCommand, parseProlog_of_length_lt (bs := [0x80, v, d]) hprolog,
    dropPrefix_of_length_lt (bs := [0x80, v, d]) hstop, dropPrefix_of_length_lt (bs := [0x80, v, d]) hstart,
    parseReadUnits_of_head_ne (by decide), parseWu_of_head_ne (by decide)]
  rfl

theorem parseCommand_prologCmd (a : BitVec 7) (r : Bool) :
    parseCommand (encode (.prologCmd a r)) = some (.prologCmd a r, []) := by
  obtain ⟨haddress, hbit⟩ := addressByte_fields a r
  calc parseCommand (prologHead ++ addressByte a.toNat r :: ackTail)
      = some (.prologCmd ((addressByte a.toNat r).extractLsb' 1 7) ((addressByte a.toNat r).getLsbD 0), []) := rfl
    _ = some (.prologCmd a r, []) := by rw [haddress, hbit]

theorem wellFormed_idle {v d : Byte} :
    (Instr.idle v d).wellFormed = true ↔ sclLevel Config.pins v d = true ∧ sdaLevel Config.pins v d = true := by
  simp [Instr.wellFormed]

theorem wellFormed_dataLow {v d : Byte} :
    (Instr.dataLow v d).wellFormed = true ↔ sclLevel Config.pins v d = true ∧ sdaLevel Config.pins v d = false := by
  simp [Instr.wellFormed]

theorem wellFormed_clkDataLow {v d : Byte} :
    (Instr.clkDataLow v d).wellFormed = true ↔
      sclLevel Config.pins v d = false ∧ sdaLevel Config.pins v d = false := by
  simp [Instr.wellFormed]

theorem wellFormed_clkLowDataHigh {v d : Byte} :
    (Instr.clkLowDataHigh v d).wellFormed = true ↔
      sclLevel Config.pins v d = false ∧ sdaLevel Config.pins v d = true := by
  simp [Instr.wellFormed]

/-- Where an operand decides what is read, the parser of pin sets, prologs or read units is cited; on the other
encodings the decoder computes. -/
theorem parseCommand_encode {i : Instr} (hi : i.format = .command) (hwf : i.wellFormed = true)
    (hne : i ≠ .chunkMid 1) : parseCommand (encode i) = some (i, []) := by
  cases i with
  | idle v d => exact (parseCommand_pinSet v d).trans (by simp [pinSetInstr, wellFormed_idle.1 hwf])
  | dataLow v d => exact (parseCommand_pinSet v d).trans (by simp [pinSetInstr, wellFormed_dataLow.1 hwf])
  | clkDataLow v d => exact (parseCommand_pinSet v d).trans (by simp [pinSetInstr, wellFormed_clkDataLow.1 hwf])
  | clkLowDataHigh v d => exact (parseCommand_pinSet v d).trans (by simp [pinSetInstr, wellFormed_clkLowDataHigh.1 hwf])
  | prologCmd a r => exact parseCommand_prologCmd a r
  | chunkMid n =>
    have hn : n ≠ 1 := fun h => hne (congrArg Instr.chunkMid h)
    have hpos : 1 ≤ n := of_decide_eq_true hwf
    obtain ⟨k, rfl⟩ := Nat.exists_eq_add_of_le' (show 2 ≤ n by omega)
    exact parseCommand_of_readUnits rfl (parseReadUnits_chunkMid k)
  | chunkLast n =>
    obtain ⟨k, rfl⟩ := Nat.exists_eq_add_of_le' (of_decide_eq_true hwf : 1 ≤ n)
    exact parseCommand_of_readUnits (by cases k <;> rfl) (parseReadUnits_chunkLast k)
  | writeByte | readBit | flush | readByte | ack | nack | start | stop | wu | ruAck | ruNack => rfl
  | _ => cases hi

open Laws.FirstByte in
/-- The first byte of a unit or template is that of no host request. -/
theorem firstByte_of_command {i : Instr} (hi : i.format = .command) : Statement i := by
  cases i <;> cases hi
  exacts [idle _ _, dataLow _ _, clkDataLow _ _, clkLowDataHigh _ _, writeByte _, readBit, flush, readByte, ack, nack,
    start, stop, wu _, ruAck, ruNack, prologCmd _ _, chunkMid _, chunkLast _]

theorem parse_encode_command {i : Instr} (hi : i.format = .command) (hwf : i.wellFormed = true)
    (hne : i ≠ .chunkMid 1) : parse (encode i) = some (i, []) := by
  obtain ⟨b, rest, hbytes, hformat⟩ := firstByte_of_command hi hwf
  rw [← parseCommand_encode hi hwf hne, hbytes, parse, hformat, hi]

theorem parse_encode {i : Instr} (hwf : i.wellFormed = true) (hne : i ≠ .chunkMid 1) :
    parse (encode i) = some (i, []) := by
  cases hi : i.format with
  | host => simpa using parse_encode_host hi []
  | slave => simpa using parse_encode_slave hi []
  | command => exact parse_encode_command hi hwf hne

/-- Settles O8: the parser of the format its first byte announces reads an instruction's encoding to the end. -/
theorem decodeInvertsEncode : Obligations.DecodeInvertsEncode :=
  ⟨fun _ hwf hne => decode_eq_some_iff.2 ⟨⟨0, parse_encode hwf hne⟩, hwf⟩, rfl⟩

end Sys2Proof

namespace Sys2Proof.Machine

/-! ### Instructions as sequences of units (R97) -/

theorem CmdEngine.units_append (p : Pins) (us vs : List CmdUnit) (c : CmdEngine) :
    c.units p (us ++ vs) = (c.units p us).units p vs :=
  List.foldl_append

theorem execAll_append (is js : List Instr) {s t : State} (h : execAll is s = .next t) :
    execAll (is ++ js) s = execAll js t := by
  induction is generalizing s with
  | nil => cases h; rfl
  | cons i is ih =>
    simp only [List.cons_append, execAll] at h ⊢
    split at h
    · exact ih h
    · cases h
    · cases h

/-- The instructions `is`, one after another, do to the Command Engine what the units `us` do, in every state with
the parameters `P`. -/
def ActAs (P : Params) (is : List Instr) (us : List CmdUnit) : Prop :=
  ∀ s : State, s.par = P → execAll is s = .next (s.setCe (s.ce.units P.pins us))

section ActAs

variable {P : Params}

theorem ActAs.nil : ActAs P [] [] := fun _ _ => rfl

theorem ActAs.single {i : Instr} {us : List CmdUnit}
    (h : ∀ s : State, exec i s = .next (s.setCe (s.ce.units s.par.pins us))) : ActAs P [i] us := by
  rintro s rfl
  simp only [execAll, h]

theorem ActAs.append {is js : List Instr} {us vs : List CmdUnit} (hi : ActAs P is us) (hj : ActAs P js vs) :
    ActAs P (is ++ js) (us ++ vs) := by
  intro s hs
  rw [execAll_append is js (hi s hs), hj (s.setCe (s.ce.units P.pins us)) hs, CmdEngine.units_append]
  rfl

theorem ActAs.cons {i : Instr} {js : List Instr} {us vs : List CmdUnit} (hi : ActAs P [i] us) (hj : ActAs P js vs) :
    ActAs P (i :: js) (us ++ vs) :=
  hi.append hj

theorem ActAs.replicate {i : Instr} {us : List CmdUnit} (h : ActAs P [i] us) (n : Nat) :
    ActAs P (List.replicate n i) (rep n us) := by
  induction n with
  | zero => exact .nil
  | succ n ih => simpa [rep, List.replicate_succ] using h.append ih

end ActAs

/-- The instruction of a unit, a pin set's at the operands BusConfig gives it (R95). -/
def unitInstrAt (p : Pins) : CmdUnit → Instr
  | .idle => .idle (idleValue p) p.direction
  | .dataLow => .dataLow (dataLowValue p) p.direction
  | .clkDataLow => .clkDataLow (clkDataLowValue p) p.direction
  | .clkLowDataHigh => .clkLowDataHigh (clkLowDataHighValue p) p.direction
  | .writeByte b => .writeByte b
  | .readBit => .readBit
  | .readByte => .readByte
  | .ack => .ack
  | .nack => .nack
  | .flush => .flush

theorem unitInstrAt_actAs (P : Params) (u : CmdUnit) : ActAs P [unitInstrAt P.pins u] [u] := by
  rintro s rfl
  cases u <;> rfl

theorem unitInstrAt_map_actAs (P : Params) (us : List CmdUnit) : ActAs P (us.map (unitInstrAt P.pins)) us := by
  induction us with
  | nil => exact .nil
  | cons u us ih => exact (unitInstrAt_actAs P u).cons ih

theorem CmdEngine.stopReply_eq (c : CmdEngine) :
    ∃ reply n, c.stopReply = { c with held := c.held ++ [reply], draws := n } := ⟨_, _, rfl⟩

theorem map_stopUnits (P : Params) (f : CmdUnit → Instr) :
    (stopUnits P).map f =
      List.replicate 4 (f .clkDataLow) ++ List.replicate 4 (f .dataLow) ++ List.replicate P.nStopIdle (f .idle) := by
  simp only [stopUnits, List.map_append, List.map_replicate, Config.nStopHold]

/-- Settles O16: each instruction acts as its units do, and the units of the expansion are those of the template. -/
theorem templatesAreTheirExpansions : Obligations.TemplatesAreTheirExpansions := by
  intro s p idle dataLow clkDataLow clkLowDataHigh
  have unit (u : CmdUnit) := unitInstrAt_actAs s.par u
  have ruAck : ActAs s.par [.ruAck] ruAckUnits := .single fun _ => rfl
  have ruNack : ActAs s.par [.ruNack] ruNackUnits := .single fun _ => rfl
  refine ⟨?_, ?_, fun b => ?_, ?_, ?_, fun a r => ?_, fun n => ?_, fun n hn => ?_⟩
  · exact (unitInstrAt_map_actAs s.par startUnits s rfl).symm
  · have hunits := unitInstrAt_map_actAs s.par (stopUnits s.par) s rfl
    rw [map_stopUnits] at hunits
    obtain ⟨reply, n, hreply⟩ := (s.ce.units s.par.pins (stopUnits s.par)).stopReply_eq
    exact ⟨_, reply, n, hunits, congrArg (fun c => Host.Outcome.next (s.setCe c)) hreply⟩
  · exact (unitInstrAt_map_actAs s.par (wuUnits b) s rfl).symm
  · exact (unitInstrAt_map_actAs s.par ruAckUnits s rfl).symm
  · exact (unitInstrAt_map_actAs s.par ruNackUnits s rfl).symm
  · have start : ActAs s.par [.start] startUnits := .single fun _ => rfl
    have wu : ActAs s.par [.wu (addressByte a.toNat r)] (wuUnits (addressByte a.toNat r)) := .single fun _ => rfl
    exact (((unit .idle).cons (start.cons wu)) s rfl).symm
  · exact (ruAck.replicate n s rfl).symm
  · have flush : ActAs s.par [.flush] [.flush] := unit .flush
    have hunits := (ruAck.replicate (n - 1)).append (ruNack.cons flush)
    rw [← List.append_assoc] at hunits
    exact (hunits s rfl).symm

/-! ### Units on the lines (R93, R95) -/

/-- A pin set at known levels (R95). -/
theorem CmdEngine.pinSet_eq {p : Pins} {v d : Byte} {scl sda : Bool}
    (h : sclLevel p v d = scl ∧ sdaLevel p v d = sda) (c : CmdEngine) :
    c.pinSet p v d =
      { c with scl := scl, sda := sda, pinValue := v, pinDir := d, wire := c.wire ++ [.pins scl sda] } := by
  obtain ⟨rfl, rfl⟩ := h
  rfl

/-- Settles O12: the levels are those of R95. -/
theorem pinSetsDriveTheLines : Obligations.PinSetsDriveTheLines := by
  intro s p after
  have hset {v d : Byte} {scl sda : Bool} (h : sclLevel p v d = scl ∧ sdaLevel p v d = sda) :
      Host.Outcome.next (s.setCe (s.ce.pinSet p v d)) = after v d scl sda :=
    congrArg (fun c => Host.Outcome.next (s.setCe c)) (s.ce.pinSet_eq h)
  constructor
  · intro hp
    obtain ⟨hidle, hdataLow, hclkDataLow, hclkLowDataHigh⟩ := pinSet_levels hp
    exact ⟨hset hidle, hset hdataLow, hset hclkDataLow, hset hclkLowDataHigh⟩
  · intro hp v d
    exact ⟨fun h => hset (hp ▸ wellFormed_idle.1 h), fun h => hset (hp ▸ wellFormed_dataLow.1 h),
      fun h => hset (hp ▸ wellFormed_clkDataLow.1 h), fun h => hset (hp ▸ wellFormed_clkLowDataHigh.1 h)⟩

/-- The address bits first, the direction bit last (R93). -/
theorem bitsMsbFirst_addressByte (a : BitVec 7) (r : Bool) :
    bitsMsbFirst (addressByte a.toNat r) = (List.range 7).map (fun i => a.getLsbD (6 - i)) ++ [r] := by
  rw [addressByte_eq_append]
  simp only [bitsMsbFirst, BitVec.getLsbD_append]
  simp [List.range_succ]

/-- The units `us` put the events `es` on the lines and leave the reply buffer alone. -/
def PutsOnWire (p : Pins) (us : List CmdUnit) (es : List WireEvent) : Prop :=
  ∀ c : CmdEngine, (c.units p us).wire = c.wire ++ es ∧ (c.units p us).held = c.held ∧ (c.units p us).ready = c.ready

section PutsOnWire

variable {p : Pins}

theorem PutsOnWire.append {us vs : List CmdUnit} {es fs : List WireEvent} (hu : PutsOnWire p us es)
    (hv : PutsOnWire p vs fs) : PutsOnWire p (us ++ vs) (es ++ fs) := by
  intro c
  obtain ⟨uwire, uheld, uready⟩ := hu c
  obtain ⟨vwire, vheld, vready⟩ := hv (c.units p us)
  rw [CmdEngine.units_append, vwire, vheld, vready, uwire, List.append_assoc]
  exact ⟨rfl, uheld, uready⟩

theorem PutsOnWire.replicate {u : CmdUnit} {e : WireEvent} (h : PutsOnWire p [u] [e]) (n : Nat) :
    PutsOnWire p (List.replicate n u) (List.replicate n e) := by
  induction n with
  | zero => exact fun c => ⟨(List.append_nil _).symm, rfl, rfl⟩
  | succ n ih => exact h.append ih

theorem putsOnWire_pinSet {u : CmdUnit} {v d : Byte} {scl sda : Bool}
    (hu : ∀ c : CmdEngine, c.units p [u] = c.pinSet p v d) (h : sclLevel p v d = scl ∧ sdaLevel p v d = sda) :
    PutsOnWire p [u] [WireEvent.pins scl sda] := by
  intro c
  rw [hu, CmdEngine.pinSet_eq h]
  exact ⟨rfl, rfl, rfl⟩

/-- The idle levels and a start condition (R135, R161). -/
theorem putsOnWire_idle_start (h : p.Ok) :
    PutsOnWire p (.idle :: startUnits)
      ([WireEvent.pins true true] ++ List.replicate 4 (WireEvent.pins true false) ++
        List.replicate 4 (WireEvent.pins false false)) := by
  obtain ⟨idle, dataLow, clkDataLow, -⟩ := pinSet_levels h
  have hidle : PutsOnWire p [.idle] _ := putsOnWire_pinSet (fun _ => rfl) idle
  have hdataLow : PutsOnWire p [.dataLow] _ := putsOnWire_pinSet (fun _ => rfl) dataLow
  have hclkDataLow : PutsOnWire p [.clkDataLow] _ := putsOnWire_pinSet (fun _ => rfl) clkDataLow
  exact (hidle.append (hdataLow.replicate 4)).append (hclkDataLow.replicate 4)

end PutsOnWire

/-- A write unit: the byte and its acknowledge slot on the wire, one reply byte, released with all before it (R140). -/
theorem CmdEngine.units_wu (p : Pins) (b : Byte) (c : CmdEngine) :
    ∃ reply : Byte, (c.units p (wuUnits b)).wire =
        c.wire ++ (bitsMsbFirst b).map WireEvent.masterBit ++ [WireEvent.slaveBit (reply.getLsbD 0)] ∧
      (c.units p (wuUnits b)).ready = c.ready ++ c.held ++ [reply] ∧ (c.units p (wuUnits b)).held = [] :=
  ⟨Config.freeReply (c.draws + 1), rfl, (List.append_assoc _ _ _).symm, rfl⟩

/-- Settles O18: `PROLOG_CMD` is the start, then the write unit of the address byte. -/
theorem writeUnitAndPrologOnTheBus : Obligations.WriteUnitAndPrologOnTheBus := by
  refine fun s => ⟨fun b => ?_, fun a r hpar => ?_⟩
  · obtain ⟨reply, hwire, hready, hheld⟩ := s.ce.units_wu s.par.pins b
    refine ⟨_, reply, rfl, ?_, hready, hheld⟩
    rw [hwire, bitsMsbFirst_eq_map_range, List.map_map, Function.comp_def]
  · obtain ⟨hpins, -, -⟩ := (Params.ok_iff _).1 hpar
    obtain ⟨swire, sheld, sready⟩ := putsOnWire_idle_start hpins s.ce
    obtain ⟨reply, hwire, hready, hheld⟩ :=
      (s.ce.units s.par.pins (.idle :: startUnits)).units_wu s.par.pins (addressByte a.toNat r)
    rw [sready, sheld] at hready
    refine ⟨_, reply, rfl, ?_, hready, hheld⟩
    refine hwire.trans ?_
    rw [swire, bitsMsbFirst_addressByte, List.map_append, List.map_map, Function.comp_def]
    simp only [List.append_assoc, List.map_cons, List.map_nil]

/-! ### The register address of a handle (R99, R102) -/

/-- `REGENC` little-endian: the low `w` bytes of `r`, least significant first. -/
def littleBytes (w r : Nat) : Bytes := (List.range w).map fun i => BitVec.ofNat 8 (r >>> (8 * i))

theorem regEnc_of_lt {h : Handle} {r : Nat} (hr : r < 2 ^ (8 * h.regWidth)) :
    regEnc h r = some (if h.regBig then (littleBytes h.regWidth r).reverse else littleBytes h.regWidth r) := if_pos hr

theorem regEnc_of_ge {h : Handle} {r : Nat} (hr : 2 ^ (8 * h.regWidth) ≤ r) : regEnc h r = none :=
  if_neg (Nat.not_lt.2 hr)

theorem littleBytes_length (w r : Nat) : (littleBytes w r).length = w := by simp [littleBytes]

theorem littleBytes_getElem? {w i : Nat} (h : i < w) (r : Nat) :
    (littleBytes w r)[i]? = some (BitVec.ofNat 8 (r >>> (8 * i))) := by simp [littleBytes, h]

/-- Most significant byte first, the bytes are the digits of the address to base 256. -/
theorem foldl_littleBytes_reverse (w r a : Nat) :
    (littleBytes w r).reverse.foldl (fun n b => 256 * n + b.toNat) a = a * 256 ^ w + r % 256 ^ w := by
  induction w generalizing a with
  | zero => simp [littleBytes, Nat.mod_one]
  | succ w ih =>
    have hcons : (littleBytes (w + 1) r).reverse = BitVec.ofNat 8 (r >>> (8 * w)) :: (littleBytes w r).reverse := by
      simp [littleBytes, List.range_succ]
    have hbyte : (BitVec.ofNat 8 (r >>> (8 * w))).toNat = r / 256 ^ w % 256 := by
      rw [BitVec.toNat_ofNat, Nat.shiftRight_eq_div_pow, Nat.pow_mul]
    rw [hcons, List.foldl_cons, ih, hbyte, Nat.mod_pow_succ]
    ring

/-- Settles O34: the bytes are the digits of the address, and there are enough of them. -/
theorem registerPrefixHoldsTheAddress : Obligations.RegisterPrefixHoldsTheAddress := by
  intro h r hr
  have hfold : r = (littleBytes h.regWidth r).reverse.foldl (fun n b => 256 * n + b.toNat) 0 := by
    rw [foldl_littleBytes_reverse, Nat.zero_mul, Nat.zero_add, Nat.mod_eq_of_lt (by rwa [Nat.pow_mul] at hr)]
  refine ⟨_, regEnc_of_lt hr, ?_⟩
  cases h.regBig with
  | false => exact ⟨littleBytes_length _ _, fun i hi => littleBytes_getElem? hi r, hfold⟩
  | true =>
    refine ⟨by simp [littleBytes_length], fun i hi => ?_, hfold⟩
    simp only [if_true]
    rw [List.getElem?_reverse (by rw [littleBytes_length]; omega), littleBytes_length, ← littleBytes_getElem? hi r]
    congr 1
    omega

theorem withHandle_of_none {s : State} {b : Nat} (hs : s.free) (h : mapGet b s.slaves = none) (k : Handle → Operation) :
    withHandle b s k = .refused .unknownHandle := by
  rw [withHandle, whenFree_of_free hs, h]

theorem withHandle_of_some {s : State} {b : Nat} {h : Handle} (hs : s.free) (hb : mapGet b s.slaves = some h)
    (k : Handle → Operation) : withHandle b s k = k h := by
  rw [withHandle, whenFree_of_free hs, hb]

theorem withPrefix_of_ge {h : Handle} {r : Nat} (hr : 2 ^ (8 * h.regWidth) ≤ r) (k : Bytes → Operation) :
    withPrefix h r k = .refused .registerAddressTooWide := by
  rw [withPrefix, regEnc_of_ge hr]

/-- Settles O35: every operation of a handle looks it up first, and one with a register address then encodes it. -/
theorem handleRefusals : Obligations.HandleRefusals := by
  intro s b hs
  constructor
  · intro hb r n out width big offset
    have hrefused (k : Handle → Operation) : (withHandle b s k).outcome = .refused .unknownHandle :=
      congrArg Operation.outcome (withHandle_of_none hs hb k)
    exact ⟨hrefused _, hrefused _, hrefused _, hrefused _, hrefused _, hrefused _, hrefused _, hrefused _, hrefused _⟩
  · intro h r hb hr n out
    have hrefused (k : Handle → Bytes → Operation) :
        (withHandle b s fun h => withPrefix h r (k h)).outcome = .refused .registerAddressTooWide := by
      rw [withHandle_of_some hs hb, withPrefix_of_ge hr]
      rfl
    exact ⟨hrefused _, hrefused _⟩

/-! ### Words (R91, R92, R96, R97, R99) -/

/-- Settles O7: the decoder, evaluated on each word. -/
theorem wordsDecodeToTheirInstructions : Obligations.WordsDecodeToTheirInstructions := by
  unfold Obligations.WordsDecodeToTheirInstructions
  decide +kernel

end Sys2Proof.Machine
end

section
/-! PROOFS. The command builder family (spec/40_command_builder.md): the units and templates act on the Command
Engine alone (R147), what they put on the lines (R135 to R146), and what an exchange is in the I2C view (R147). -/

namespace Sys2Proof.Machine

/-! ### Units and templates on the lines (R135 to R146) -/

/-- Settles O11: the meaning of every command is a change of the Command Engine. -/
theorem commandsActOnTheCommandEngineAlone : Obligations.CommandsActOnTheCommandEngineAlone :=
  fun _ s hformat => exec_of_command hformat s

/-- Settles O14: the sample of `READ_BIT` is bit 0 of the free reply byte; `ACK` and `NACK` clock a fixed level. -/
theorem bitUnitsClockOneBit : Obligations.BitUnitsClockOneBit := fun s =>
  ⟨⟨_, Config.freeReply s.ce.draws, rfl, rfl, rfl, rfl⟩, ⟨_, rfl, rfl, rfl, rfl⟩, ⟨_, rfl, rfl, rfl, rfl⟩⟩

/-- Settles O15: `FLUSH` is `CmdEngine.flush`. -/
theorem flushReleasesTheReplies : Obligations.FlushReleasesTheReplies := fun _ => rfl

/-- A pin set held for some units leaves its levels on the lines, one event for each unit. -/
theorem CmdEngine.units_hold {p : Pins} (u : CmdUnit) {v d : Byte} {scl sda : Bool}
    (hu : ∀ c : CmdEngine, c.units p [u] = c.pinSet p v d) (h : sclLevel p v d = scl ∧ sdaLevel p v d = sda)
    (n : Nat) (c : CmdEngine) :
    c.units p (List.replicate (n + 1) u) =
      { c with
        scl := scl, sda := sda, pinValue := v, pinDir := d
        wire := c.wire ++ List.replicate (n + 1) (.pins scl sda) } := by
  induction n generalizing c with
  | zero => exact (hu c).trans (c.pinSet_eq h)
  | succ n ih =>
    have hfirst : c.units p [u] = _ := (hu c).trans (c.pinSet_eq h)
    rw [List.replicate_succ, ← List.singleton_append, CmdEngine.units_append, hfirst, ih,
      List.replicate_succ (n := n + 1), List.append_assoc, List.singleton_append]

/-- `START`: the data line falls under a high clock, then the clock (R135). -/
theorem CmdEngine.units_start {p : Pins} (hp : p.Ok) (c : CmdEngine) :
    c.units p startUnits =
      { c with
        scl := false, sda := false, pinValue := clkDataLowValue p, pinDir := p.direction
        wire := c.wire ++ List.replicate 4 (.pins true false) ++ List.replicate 4 (.pins false false) } := by
  obtain ⟨-, hdataLow, hclkDataLow, -⟩ := pinSet_levels hp
  rw [startUnits, CmdEngine.units_append, Config.nHold, units_hold .dataLow (fun _ => rfl) hdataLow 3,
    units_hold .clkDataLow (fun _ => rfl) hclkDataLow 3]

/-- `STOP` without its reply: the mirror of the start, then both lines high (R136). -/
theorem CmdEngine.units_stop {P : Params} (hP : P.Ok) (c : CmdEngine) :
    c.units P.pins (stopUnits P) =
      { c with
        scl := true, sda := true, pinValue := idleValue P.pins, pinDir := P.pins.direction
        wire := c.wire ++ List.replicate 4 (.pins false false) ++ List.replicate 4 (.pins true false) ++
          List.replicate P.nStopIdle (.pins true true) } := by
  obtain ⟨hpins, -, hidles⟩ := (Params.ok_iff P).1 hP
  obtain ⟨hidle, hdataLow, hclkDataLow, -⟩ := pinSet_levels hpins
  obtain ⟨n, hn⟩ := Nat.exists_eq_add_of_le' hidles
  rw [stopUnits, CmdEngine.units_append, CmdEngine.units_append, Config.nStopHold,
    units_hold .clkDataLow (fun _ => rfl) hclkDataLow 3, units_hold .dataLow (fun _ => rfl) hdataLow 3, hn,
    units_hold .idle (fun _ => rfl) hidle n]

/-- Settles O17: both are holds of pin sets, and `STOP` adds its reply byte. -/
theorem startAndStopMoveTheLines : Obligations.StartAndStopMoveTheLines := by
  intro s hpar
  obtain ⟨hpins, -, -⟩ := (Params.ok_iff _).1 hpar
  have hstop : s.ce.stop s.par = _ := congrArg CmdEngine.stopReply (s.ce.units_stop hpar)
  constructor
  · exact ⟨_, congrArg (fun c => Host.Outcome.next (s.setCe c)) (s.ce.units_start hpins), rfl, rfl, rfl, rfl, rfl⟩
  · exact ⟨_, _, congrArg (fun c => Host.Outcome.next (s.setCe c)) hstop, rfl, rfl, rfl, rfl, rfl⟩

/-! ### Read units (R144, R146) -/

/-- `RU_ACK` and `RU_NACK`, by the master's acknowledge bit. -/
def readUnits (nack : Bool) : List CmdUnit := if nack then ruNackUnits else ruAckUnits

/-- What a read unit puts on the lines where the slave sends `reply`. -/
def readUnitEvents (nack : Bool) (reply : Byte) : List WireEvent :=
  (List.range 8).map (fun i => WireEvent.slaveBit (reply.getLsbD (7 - i))) ++
    [WireEvent.masterBit nack, .pins false true]

section ReadUnits

variable {p : Pins}

theorem CmdEngine.units_readUnit (hp : p.Ok) (nack : Bool) (c : CmdEngine) :
    ∃ reply, (c.units p (readUnits nack)).wire = c.wire ++ readUnitEvents nack reply ∧
      (c.units p (readUnits nack)).scl = false ∧ (c.units p (readUnits nack)).sda = true ∧
      (c.units p (readUnits nack)).held = c.held ++ [reply] ∧ (c.units p (readUnits nack)).ready = c.ready := by
  obtain ⟨-, -, -, hlevels⟩ := pinSet_levels hp
  have hunits : c.units p (readUnits nack) =
      (c.shiftInByte.shiftOutBit nack).pinSet p (clkLowDataHighValue p) p.direction := by cases nack <;> rfl
  rw [hunits, CmdEngine.pinSet_eq hlevels]
  refine ⟨Config.freeReply c.draws, ?_, rfl, rfl, rfl, rfl⟩
  show c.wire ++ (bitsMsbFirst (Config.freeReply c.draws)).map WireEvent.slaveBit ++ [WireEvent.masterBit nack] ++
    [WireEvent.pins false true] = _
  rw [bitsMsbFirst_eq_map_range, List.map_map, Function.comp_def, List.append_assoc, List.append_assoc]
  rfl

/-- Acknowledged read units one after another: a reply byte for each (R146). -/
theorem CmdEngine.units_chunkMid (hp : p.Ok) (n : Nat) (c : CmdEngine) :
    ∃ replies : Bytes, replies.length = n ∧
      (c.units p (chunkMidUnits n)).wire = c.wire ++ replies.flatMap (readUnitEvents false) ∧
      (c.units p (chunkMidUnits n)).held = c.held ++ replies ∧ (c.units p (chunkMidUnits n)).ready = c.ready := by
  induction n generalizing c with
  | zero => exact ⟨[], rfl, (List.append_nil _).symm, (List.append_nil _).symm, rfl⟩
  | succ n ih =>
    obtain ⟨reply, hwire, -, -, hheld, hready⟩ := c.units_readUnit hp false
    obtain ⟨replies, hlength, hwires, hhelds, hreadys⟩ := ih (c.units p (readUnits false))
    have hunits : c.units p (chunkMidUnits (n + 1)) = (c.units p (readUnits false)).units p (chunkMidUnits n) :=
      CmdEngine.units_append p (readUnits false) (chunkMidUnits n) c
    rw [hunits, hwires, hwire, hhelds, hheld, hreadys, hready]
    exact ⟨reply :: replies, congrArg (· + 1) hlength, List.append_assoc _ _ _, List.append_assoc _ _ _, rfl⟩

/-- The last chunk: its last unit is refused, and its `FLUSH` releases all replies (R146). -/
theorem CmdEngine.units_chunkLast (hp : p.Ok) (n : Nat) (c : CmdEngine) :
    ∃ (replies : Bytes) (last : Byte), replies.length = n - 1 ∧
      (c.units p (chunkLastUnits n)).wire =
        c.wire ++ replies.flatMap (readUnitEvents false) ++ readUnitEvents true last ∧
      (c.units p (chunkLastUnits n)).ready = c.ready ++ c.held ++ replies ++ [last] ∧
      (c.units p (chunkLastUnits n)).held = [] := by
  obtain ⟨replies, hlength, hwires, hhelds, hreadys⟩ := c.units_chunkMid hp (n - 1)
  obtain ⟨last, hwire, -, -, hheld, hready⟩ := (c.units p (chunkMidUnits (n - 1))).units_readUnit hp true
  have hunits : c.units p (chunkLastUnits n) =
      ((c.units p (chunkMidUnits (n - 1))).units p (readUnits true)).flush := by
    rw [← CmdEngine.units_append, chunkLastUnits, CmdEngine.units_append]
    rfl
  rw [hunits]
  refine ⟨replies, last, hlength, by rw [← hwires, ← hwire]; rfl, ?_, rfl⟩
  show CmdEngine.ready _ ++ CmdEngine.held _ = _
  rw [hready, hreadys, hheld, hhelds, List.append_assoc, List.append_assoc, List.append_assoc]

end ReadUnits

/-- Settles O19: `READ_BYTE` samples the reply byte, `ACK` or `NACK` clocks the master's bit, the pin set closes. -/
theorem readUnitsOnTheBus : Obligations.ReadUnitsOnTheBus := by
  intro s nack hpar
  obtain ⟨hpins, -, -⟩ := (Params.ok_iff _).1 hpar
  obtain ⟨reply, hwire, hrest⟩ := s.ce.units_readUnit hpins nack
  refine ⟨s.ce.units s.par.pins (readUnits nack), reply, ?_, hwire.trans (List.append_assoc _ _ _).symm, hrest⟩
  cases nack <;> rfl

/-- Settles O20: `units_chunkMid`, an induction on the number of units, and the last unit with its `FLUSH`. -/
theorem chunksReadUnitAfterUnit : Obligations.ChunksReadUnitAfterUnit := by
  intro s n hpar unit
  obtain ⟨hpins, -, -⟩ := (Params.ok_iff _).1 hpar
  obtain ⟨replies, hmid⟩ := s.ce.units_chunkMid hpins n
  obtain ⟨repliesLast, last, hlast⟩ := s.ce.units_chunkLast hpins n
  exact ⟨⟨_, replies, rfl, hmid⟩, fun _ => ⟨_, repliesLast, last, rfl, hlast⟩⟩

/-! ### The I2C view of units (R147) -/

theorem dropUnits_append (p r : List CmdUnit) : dropUnits p (p ++ r) = some r := by
  induction p with
  | nil => rfl
  | cons u p ih => simp [dropUnits, ih]

theorem dropUnits_cons_ne {q u : CmdUnit} (h : q ≠ u) (p us : List CmdUnit) : dropUnits (q :: p) (u :: us) = none :=
  if_neg h

theorem dropUnits_eq_some {p us r : List CmdUnit} (h : dropUnits p us = some r) : us = p ++ r := by
  induction p generalizing us with
  | nil => cases h; rfl
  | cons q p ih =>
    cases us with
    | nil => cases h
    | cons u us =>
      simp only [dropUnits] at h
      split at h
      · next hq => rw [hq, ih h, List.cons_append]
      · cases h

section BusEvents

variable {P : Params}

theorem stopUnits_eq_cons (P : Params) : ∃ us, stopUnits P = .clkDataLow :: us := ⟨_, rfl⟩

/-- Every line of the table takes at least one unit. -/
theorem eventAt_length_lt {us : List CmdUnit} (h : us ≠ []) : (eventAt P us).2.length < us.length := by
  obtain ⟨vs, hvs⟩ := stopUnits_eq_cons P
  unfold eventAt
  split
  · next r hr => simp [dropUnits_eq_some hr]
  · split
    · next r hr => simp [dropUnits_eq_some hr, hvs]
    · split <;> simp at h ⊢ <;> omega

/-- The events do not depend on the fuel, where it is enough for every unit. -/
theorem eventsFuel_congr {m n : Nat} {us : List CmdUnit} (hm : us.length ≤ m) (hn : us.length ≤ n) :
    eventsFuel P m us = eventsFuel P n us := by
  induction m generalizing n us with
  | zero =>
    obtain rfl := List.length_eq_zero_iff.1 (Nat.le_zero.1 hm)
    cases n <;> rfl
  | succ m ih =>
    by_cases hus : us = []
    · subst hus
      cases n <;> rfl
    · have hlt := eventAt_length_lt (P := P) hus
      obtain ⟨k, rfl⟩ : ∃ k, n = k + 1 := ⟨n - 1, by omega⟩
      rw [eventsFuel, eventsFuel, if_neg hus, if_neg hus, ih (n := k) (by omega) (by omega)]

/-- Before anything else, the units `us` are the events `es`. -/
def HasEvents (P : Params) (us : List CmdUnit) (es : List BusEvent) : Prop :=
  ∀ r, busEvents P (us ++ r) = es ++ busEvents P r

theorem HasEvents.busEvents_eq {us : List CmdUnit} {es : List BusEvent} (h : HasEvents P us es) :
    busEvents P us = es := by
  have hall := h []
  rwa [List.append_nil, show busEvents P [] = [] from rfl, List.append_nil] at hall

/-- A line of the table. -/
theorem HasEvents.line {us : List CmdUnit} {es : List BusEvent} (hus : us ≠ [])
    (h : ∀ r, eventAt P (us ++ r) = (es, r)) : HasEvents P us es := by
  intro r
  have hne : us ++ r ≠ [] := List.append_ne_nil_of_left_ne_nil hus r
  have hlt := eventAt_length_lt (P := P) hne
  obtain ⟨k, hk⟩ : ∃ k, (us ++ r).length = k + 1 := ⟨(us ++ r).length - 1, by omega⟩
  rw [h, hk] at hlt
  rw [busEvents, hk, eventsFuel, if_neg hne, h, eventsFuel_congr (Nat.le_of_lt_succ hlt) le_rfl, busEvents]

theorem HasEvents.nil : HasEvents P [] [] := fun _ => rfl

theorem HasEvents.append {us vs : List CmdUnit} {es fs : List BusEvent} (hu : HasEvents P us es)
    (hv : HasEvents P vs fs) : HasEvents P (us ++ vs) (es ++ fs) := by
  intro r
  rw [List.append_assoc, hu, hv, List.append_assoc]

theorem HasEvents.flatMap {α : Type} {f : α → List CmdUnit} {g : α → List BusEvent}
    (h : ∀ a, HasEvents P (f a) (g a)) (l : List α) : HasEvents P (l.flatMap f) (l.flatMap g) := by
  induction l with
  | nil => exact .nil
  | cons a l ih => exact (h a).append ih

theorem HasEvents.rep {us : List CmdUnit} {es : List BusEvent} (h : HasEvents P us es) (n : Nat) :
    HasEvents P (rep n us) (rep n es) := by
  induction n with
  | zero => exact .nil
  | succ n ih => exact h.append ih

theorem hasEvents_start : HasEvents P (.idle :: startUnits) [.start] :=
  .line (List.cons_ne_nil _ _) fun r => by simp only [eventAt, dropUnits_append]

theorem hasEvents_stop : HasEvents P (stopUnits P) [.stop] :=
  .line (List.cons_ne_nil _ _) fun r => by
    have hstart : dropUnits (.idle :: startUnits) (stopUnits P ++ r) = none := dropUnits_cons_ne (by decide) _ _
    simp only [eventAt, hstart, dropUnits_append]

/-- A unit that begins neither a start nor a stop. -/
theorem dropUnits_start_stop {u : CmdUnit} (hidle : .idle ≠ u) (hlow : .clkDataLow ≠ u) (us : List CmdUnit) :
    dropUnits (.idle :: startUnits) (u :: us) = none ∧ dropUnits (stopUnits P) (u :: us) = none :=
  ⟨dropUnits_cons_ne hidle _ _, dropUnits_cons_ne hlow _ _⟩

theorem hasEvents_write (b : Byte) : HasEvents P [.writeByte b, .readBit] [.write b, .slaveAck] :=
  .line (List.cons_ne_nil _ _) fun r => by
    obtain ⟨hstart, hstop⟩ := dropUnits_start_stop (P := P) (u := .writeByte b) nofun nofun (.readBit :: r)
    simp [eventAt, hstart, hstop]

theorem hasEvents_ruAck : HasEvents P ruAckUnits [.read, .masterAck] :=
  .line (List.cons_ne_nil _ _) fun r => by
    obtain ⟨hstart, hstop⟩ := dropUnits_start_stop (P := P) (u := .readByte) nofun nofun (.ack :: .clkLowDataHigh :: r)
    simp [eventAt, ruAckUnits, hstart, hstop]

theorem hasEvents_ruNack : HasEvents P ruNackUnits [.read, .masterNack] :=
  .line (List.cons_ne_nil _ _) fun r => by
    obtain ⟨hstart, hstop⟩ := dropUnits_start_stop (P := P) (u := .readByte) nofun nofun (.nack :: .clkLowDataHigh :: r)
    simp [eventAt, ruNackUnits, hstart, hstop]

theorem hasEvents_flush : HasEvents P [.flush] [] :=
  .line (List.cons_ne_nil _ _) fun r => by
    obtain ⟨hstart, hstop⟩ := dropUnits_start_stop (P := P) (u := .flush) nofun nofun r
    simp [eventAt, hstart, hstop]

theorem hasEvents_wu (b : Byte) : HasEvents P (wuUnits b) [.write b, .slaveAck] :=
  (hasEvents_write b).append hasEvents_flush

theorem hasEvents_prolog (ab : Byte) : HasEvents P (prologUnits ab) [.start, .write ab, .slaveAck] :=
  hasEvents_start.append (hasEvents_wu ab)

theorem hasEvents_chunkLast (n : Nat) :
    HasEvents P (chunkLastUnits n) (rep (n - 1) [BusEvent.read, .masterAck] ++ [BusEvent.read, .masterNack]) := by
  have h := ((hasEvents_ruAck (P := P)).rep (n - 1)).append (hasEvents_ruNack.append hasEvents_flush)
  rw [← List.append_assoc] at h
  exact h

end BusEvents

/-! ### Calls that are all answered (R197) -/

/-- From `s` to `t` the engine made the calls `l`, and the answers `sends` and `receives` are those still to come. -/
structure Progress (s t : State) (sends : List Bool) (receives : List Bytes) (l : List CallRecord) : Prop where
  env : t.env = { s.env with sends := sends, receives := receives }
  calls : t.calls = s.calls ++ l
  attempt : t.attempt = s.attempt
  frame : BusFrame s t
  registers : s.RegistersOk → t.RegistersOk

section Progress

variable {s t u : State} {sends sends' : List Bool} {receives receives' : List Bytes} {l l' : List CallRecord}

theorem Progress.trans (h : Progress s t sends receives l) (h' : Progress t u sends' receives' l') :
    Progress s u sends' receives' (l ++ l') where
  env := by rw [h'.env, h.env]
  calls := by rw [h'.calls, h.calls, List.append_assoc]
  attempt := h'.attempt.trans h.attempt
  frame := busFrame_closed.trans h.frame h'.frame
  registers := h'.registers ∘ h.registers

theorem Progress.par (h : Progress s t sends receives l) : t.par = s.par := by
  obtain ⟨-, -, -, -, -, -, -, hpar⟩ := h.frame.config
  exact hpar

theorem Progress.tpl (h : Progress s t sends receives l) : t.tpl = s.tpl := by
  obtain ⟨-, -, htpl, -⟩ := h.frame.config
  exact htpl

theorem Progress.chunkSize (h : Progress s t sends receives l) : t.chunkSize = s.chunkSize := by
  obtain ⟨-, -, -, hsize, -⟩ := h.frame.config
  exact hsize

/-- A change of the sequencer's registers, without a call. -/
theorem Progress.silent (henv : t.env = s.env) (hcalls : t.calls = s.calls) (hattempt : t.attempt = s.attempt)
    (hframe : BusFrame s t) (hregisters : s.RegistersOk → t.RegistersOk) :
    Progress s t s.env.sends s.env.receives [] :=
  ⟨henv, hcalls.trans (List.append_nil _).symm, hattempt, hframe, hregisters⟩

/-- What is done without a call leaves the answers to come as they were. -/
theorem Progress.then_silent (h : Progress s t sends receives l) (h' : Progress t u t.env.sends t.env.receives []) :
    Progress s u sends receives l := by
  have htrans := h.trans h'
  rwa [h.env, List.append_nil] at htrans

theorem Progress.refl (s : State) : Progress s s s.env.sends s.env.receives [] :=
  .silent rfl rfl rfl (busFrame_closed.refl s) id

theorem progress_setPhase (s : State) {p : Phase} (hp : p ≠ .idle) :
    Progress s (s.setPhase p) s.env.sends s.env.receives [] :=
  .silent rfl rfl rfl (busFrame_closed.phase s p hp) id

theorem progress_setAckBit (s : State) (b : Bool) : Progress s (s.setAckBit b) s.env.sends s.env.receives [] :=
  .silent rfl rfl rfl (busFrame_closed.ackBit s b) id

theorem progress_readRegs (s : State) (n : Nat) (d : Bytes) :
    Progress s (s.setTxn { s.txn with rem := n, rbuf := d }) s.env.sends s.env.receives [] :=
  .silent rfl rfl rfl (busFrame_closed.readRegs s n d) id

theorem progress_cachedChunkMid (s : State) :
    Progress s (cachedChunkMid s.chunkSize.toNat s).2 s.env.sends s.env.receives [] := by
  have hrest : (cachedChunkMid s.chunkSize.toNat s).2.env = s.env ∧
      (cachedChunkMid s.chunkSize.toNat s).2.calls = s.calls ∧
      (cachedChunkMid s.chunkSize.toNat s).2.attempt = s.attempt := by
    unfold cachedChunkMid
    cases mapGet s.chunkSize.toNat s.chunkCache <;> exact ⟨rfl, rfl, rfl⟩
  obtain ⟨henv, hcalls, hattempt⟩ := hrest
  exact .silent henv hcalls hattempt (busFrame_closed.cache s) (registersOk_closed.cache s)

/-- The procedure returns `a`, having made the calls `l` since `s`. -/
def Proc.Progresses {α : Type} (s : State) (p : Proc α) (a : α) (sends : List Bool) (receives : List Bytes)
    (l : List CallRecord) : Prop :=
  ∃ t, p.run = .done a t ∧ Progress s t sends receives l

theorem Proc.Progresses.andThen {α β : Type} {p : Proc α} {f : α → State → Proc β} {a : α} {b : β}
    (h : p.Progresses s a sends receives l)
    (hf : ∀ t, Progress s t sends receives l → (f a t).Progresses t b sends' receives' l') :
    (p.andThen f).Progresses s b sends' receives' (l ++ l') := by
  obtain ⟨t, hrun, ht⟩ := h
  obtain ⟨u, hrun', hu⟩ := hf t ht
  exact ⟨u, (Proc.run_andThen_of_done hrun f).trans hrun', ht.trans hu⟩

/-- A procedure that runs as `q` does, from a state `s` has led to. -/
theorem Proc.Progresses.after {α : Type} {p q : Proc α} {a : α} (hrun : p.run = q.run)
    (h : Progress s t sends receives l) (hq : q.Progresses t a sends' receives' l') :
    p.Progresses s a sends' receives' (l ++ l') := by
  obtain ⟨u, hdone, hu⟩ := hq
  exact ⟨u, hrun.trans hdone, h.trans hu⟩

/-- A round trip whose two calls are answered goes on with the bytes received. -/
theorem roundTrip_run {r : Bytes} (hsend : s.env.sends = true :: sends) (hreceive : s.env.receives = r :: receives)
    (v : Bytes) (n budget : Nat) :
    ∃ t, Progress s t sends receives (roundTripCalls s.phase s.attempt v n budget (r.take n)) ∧
      t.phase = s.phase ∧ t.txn = s.txn ∧
      ∀ k : Bytes → State → Proc PhaseOutcome, (roundTrip v n budget s k).run = (k (r.take n) t).run := by
  have hreceive' : (sent v true sends s).env.receives = r :: receives := hreceive
  have hrun (k : Bytes → State → Proc PhaseOutcome) : (roundTrip v n budget s k).run =
      (k (r.take n) (received n budget (r.take n) receives (sent v true sends s))).run := by
    rw [roundTrip, Proc.run_andThen_of_done (memWrite_cons v hsend), if_pos rfl,
      Proc.run_andThen_of_done (memRead_cons n budget hreceive')]
  obtain ⟨c, hstate⟩ : ∃ c, received n budget (r.take n) receives (sent v true sends s) = { s with
      ce := c, env := { s.env with sends := sends, receives := receives }
      calls := s.calls ++ roundTripCalls s.phase s.attempt v n budget (r.take n) } :=
    ⟨(s.ce.execute s.par v).consume (r.take n).length, by
      simp [received, sent, roundTripCalls, State.record, State.setCe, State.setEnv]⟩
  rw [hstate] at hrun
  refine ⟨_, ?_, ?_, ?_, hrun⟩
  · exact ⟨rfl, rfl, rfl, ⟨⟨rfl, rfl, rfl, rfl, rfl, rfl, rfl, rfl⟩, rfl, rfl, rfl, rfl, rfl, rfl, rfl, _, rfl⟩, id⟩
  · rfl
  · rfl

/-- A reply byte with bit 0 clear acknowledges. -/
theorem ackTest_of_ack {b : Byte} (hb : ackBitOf b = false) (s : State) :
    ackTest [b] s = .done (.acked []) (s.setAckBit false) := by simp [ackTest, hb]

theorem prolog_progresses {b : Byte} (hb : ackBitOf b = false) (hsend : s.env.sends = true :: sends)
    (hreceive : s.env.receives = [b] :: receives) (ab : Byte) :
    (prolog ab s).Progresses s (.acked []) sends receives (prologCalls s.par s.tpl s.attempt ab [b]) := by
  obtain ⟨t, htrip, -, -, hrun⟩ :=
    roundTrip_run (s := s.setPhase .prolog) hsend hreceive (s.tpl.prologCmd ab) 1 s.par.rxBudget
  exact ⟨t.setAckBit false, (hrun ackTest).trans (congrArg Proc.run (ackTest_of_ack hb t)),
    (progress_setPhase s (by decide)).trans (htrip.then_silent (progress_setAckBit t false))⟩

theorem epilog_progresses {e : Bytes} (hsend : s.env.sends = true :: sends)
    (hreceive : s.env.receives = e :: receives) :
    (epilog s).Progresses s (.acked []) sends receives (epilogCalls s.par s.tpl s.attempt (e.take 1)) := by
  obtain ⟨t, htrip, -, -, hrun⟩ :=
    roundTrip_run (s := s.setPhase .epilog) hsend hreceive s.tpl.stop 1 s.par.rxBudgetEpilog
  exact ⟨t, hrun _, (progress_setPhase s (by decide)).trans htrip⟩

/-- A written byte that is acknowledged. -/
theorem writeBytes_cons_run {a : Byte} (ha : ackBitOf a = false) (hsend : s.env.sends = true :: sends)
    (hreceive : s.env.receives = [a] :: receives) (b : Byte) (out : Bytes) :
    ∃ t, (writeBytes (b :: out) s).run = (writeBytes out t).run ∧
      Progress s t sends receives (roundTripCalls s.phase s.attempt (s.tpl.wu b) 1 s.par.rxBudget [a]) ∧
      t.phase = s.phase := by
  obtain ⟨t, htrip, hphase, -, hrun⟩ := roundTrip_run hsend hreceive (s.tpl.wu b) 1 s.par.rxBudget
  have htest : ackTest ([a].take 1) t = .done (.acked []) (t.setAckBit false) := ackTest_of_ack ha t
  refine ⟨t.setAckBit false, ?_, htrip.then_silent (progress_setAckBit t false), hphase⟩
  rw [writeBytes, hrun, htest, Proc.andThen_done]

theorem writeBytes_progresses {out acks : Bytes} (hphase : s.phase = .payload) (hlength : acks.length = out.length)
    (hacks : AllAck acks) (hsends : s.env.sends = List.replicate out.length true ++ sends)
    (hreceives : s.env.receives = acks.map (fun b => [b]) ++ receives) :
    (writeBytes out s).Progresses s (.acked []) sends receives (writeCalls s.par s.tpl s.attempt out acks) := by
  induction out generalizing s acks with
  | nil =>
    obtain rfl := List.length_eq_zero_iff.1 hlength
    cases hsends
    cases hreceives
    exact ⟨s, rfl, .refl s⟩
  | cons b out ih =>
    obtain ⟨a, acks, rfl⟩ := List.exists_cons_of_length_eq_add_one hlength
    obtain ⟨ha, hacks⟩ := List.forall_mem_cons.1 hacks
    obtain ⟨t, hrun, ht, htphase⟩ := writeBytes_cons_run ha hsends hreceives b out
    have hrest := ih (htphase.trans hphase) (Nat.succ.inj hlength) hacks (congrArg Env.sends ht.env)
      (congrArg Env.receives ht.env)
    have h := hrest.after hrun ht
    rwa [hphase, ht.par, ht.tpl, ht.attempt] at h

theorem writePhase_progresses {out acks : Bytes} (hlength : acks.length = out.length) (hacks : AllAck acks)
    (hsends : s.env.sends = List.replicate out.length true ++ sends)
    (hreceives : s.env.receives = acks.map (fun b => [b]) ++ receives) :
    (writePhase out s).Progresses s (.acked []) sends receives (writeCalls s.par s.tpl s.attempt out acks) :=
  .after rfl (progress_setPhase s (p := .payload) (by decide))
    (writeBytes_progresses (s := s.setPhase .payload) rfl hlength hacks hsends hreceives)

/-! #### The read phase (R164, R165) -/

theorem chunkSizes_of_le {c n : Nat} (hn : 1 ≤ n) (hc : n ≤ c) : chunkSizes c n = [n] := by
  have hcount : chunkCount c n = 1 := Nat.div_eq_of_lt_le (by omega) (by omega)
  simp [chunkSizes, hcount]

theorem chunkSizes_of_lt {c n : Nat} (hc : 1 ≤ c) (hn : c < n) : chunkSizes c n = c :: chunkSizes c (n - c) := by
  have hcount : chunkCount c n = chunkCount c (n - c) + 1 := by
    rw [chunkCount, chunkCount, ← Nat.add_div_right _ hc]
    congr 1
    omega
  obtain ⟨k, hk⟩ : ∃ k, chunkCount c (n - c) = k + 1 :=
    Nat.exists_eq_add_of_le' (Nat.div_pos (by omega) hc)
  simp [chunkSizes, hcount, hk, List.replicate_succ, Nat.succ_mul, Nat.sub_sub, Nat.add_comm]

/-- The chunks of a read hold its bytes, and none is empty (R165). -/
theorem chunkSizes_sum_pos {c n : Nat} (hc : 1 ≤ c) (hn : 1 ≤ n) :
    (chunkSizes c n).sum = n ∧ ∀ k ∈ chunkSizes c n, 1 ≤ k := by
  induction n using Nat.strong_induction_on with
  | _ n ih =>
    by_cases hle : n ≤ c
    · simp [chunkSizes_of_le hn hle, hn]
    · obtain ⟨hsum, hpos⟩ := ih (n - c) (by omega) (by omega)
      rw [chunkSizes_of_lt hc (by omega), List.sum_cons, hsum]
      exact ⟨by omega, List.forall_mem_cons.2 ⟨hc, hpos⟩⟩

theorem State.RegistersOk.cachedChunkMid_buffer (h : s.RegistersOk) :
    (cachedChunkMid s.chunkSize.toNat s).1 = s.tpl.chunkMid s.chunkSize.toNat := by
  obtain ⟨-, -, -, -, hempty | hone⟩ := h
  · simp [cachedChunkMid, hempty]
  · simp [cachedChunkMid, hone, mapGet, Templates.chunkMid]

theorem nextChunk_of_gt (h : s.RegistersOk) (hrem : (s.txn.rem : Int) > s.chunkSize) :
    nextChunk s =
      (s.chunkSize.toNat, s.tpl.chunkMid s.chunkSize.toNat, (cachedChunkMid s.chunkSize.toNat s).2) := by
  rw [nextChunk, if_pos hrem, h.cachedChunkMid_buffer]

theorem nextChunk_of_le (hrem : (s.txn.rem : Int) ≤ s.chunkSize) :
    nextChunk s = (s.txn.rem, s.tpl.chunkLast s.txn.rem, s) := if_neg (not_lt.2 hrem)

theorem progress_nextChunk (s : State) :
    Progress s (nextChunk s).2.2 s.env.sends s.env.receives [] ∧ (nextChunk s).2.2.phase = s.phase := by
  unfold nextChunk
  split
  · refine ⟨progress_cachedChunkMid s, ?_⟩
    unfold cachedChunkMid
    cases mapGet s.chunkSize.toNat s.chunkCache <;> rfl
  · exact ⟨.refl s, rfl⟩

/-- A chunk that came in full is appended, and the loop goes on. -/
theorem readChunks_run {r : Bytes} (hrem : s.txn.rem ≠ 0) (hr : r.length = (nextChunk s).1)
    (hsend : s.env.sends = true :: sends) (hreceive : s.env.receives = r :: receives) (fuel : Nat) :
    ∃ t, (readChunks (fuel + 1) s).run = (readChunks fuel t).run ∧
      Progress s t sends receives
        (roundTripCalls s.phase s.attempt (nextChunk s).2.1 r.length s.par.rxBudget r) ∧
      t.phase = s.phase ∧ t.txn = { s.txn with rbuf := s.txn.rbuf ++ r, rem := s.txn.rem - r.length } := by
  obtain ⟨hnext, hnextPhase⟩ := progress_nextChunk s
  obtain ⟨t, htrip, hphase, htxn, hrun⟩ := roundTrip_run (s := (nextChunk s).2.2) (by rw [hnext.env, hsend])
    (by rw [hnext.env, hreceive]) (nextChunk s).2.1 (nextChunk s).1 s.par.rxBudget
  rw [List.take_of_length_le hr.le, hnextPhase, hnext.attempt, ← hr] at htrip
  rw [nextChunk_txn] at htxn
  refine ⟨takeChunk r.length r t, ?_, ?_, hphase.trans hnextPhase, ?_⟩
  · rw [readChunks, if_neg hrem, hrun, List.take_of_length_le hr.le, if_neg hr.not_lt, hr]
  · exact (hnext.trans htrip).then_silent (progress_readRegs t (t.txn.rem - r.length) (t.txn.rbuf ++ r))
  · rw [takeChunk, State.setTxn_txn, htxn]

theorem readChunks_of_rem_zero (h : s.txn.rem = 0) (fuel : Nat) : readChunks fuel s = .done (.acked s.txn.rbuf) s := by
  cases fuel with
  | zero => rfl
  | succ fuel => exact if_pos h

theorem readCalls_cons {rest : List Bytes} (h : rest ≠ []) (P : Params) (t : Templates) (attempt : Nat) (r : Bytes) :
    readCalls P t attempt (r :: rest) =
      roundTripCalls .payload attempt (t.chunkMid r.length) r.length P.rxBudget r ++ readCalls P t attempt rest := by
  cases rest with
  | nil => exact absurd rfl h
  | cons q rest => rfl

theorem readChunks_progresses {fuel : Nat} {chunks : List Bytes} (hregs : s.RegistersOk) (hsize : 1 ≤ s.chunkSize)
    (hphase : s.phase = .payload) (hrem : 1 ≤ s.txn.rem) (hfuel : s.txn.rem ≤ fuel)
    (hchunks : chunks.map List.length = chunkSizes s.chunkSize.toNat s.txn.rem)
    (hsends : s.env.sends = List.replicate chunks.length true ++ sends)
    (hreceives : s.env.receives = chunks ++ receives) :
    (readChunks fuel s).Progresses s (.acked (s.txn.rbuf ++ chunks.flatten)) sends receives
      (readCalls s.par s.tpl s.attempt chunks) := by
  induction fuel generalizing s chunks with
  | zero => omega
  | succ fuel ih =>
    by_cases hlast : (s.txn.rem : Int) ≤ s.chunkSize
    · rw [chunkSizes_of_le hrem (by omega)] at hchunks
      obtain ⟨r, rest, rfl, hr, hrest⟩ := List.map_eq_cons_iff.1 hchunks
      obtain rfl := List.map_eq_nil_iff.1 hrest
      obtain ⟨t, hrun, ht, -, htxn⟩ :=
        readChunks_run (by omega) (by rw [nextChunk_of_le hlast, hr]) hsends hreceives fuel
      rw [nextChunk_of_le hlast, hphase, ← hr] at ht
      have hdone : t.txn.rem = 0 := by rw [htxn, hr, Nat.sub_self]
      rw [readChunks_of_rem_zero hdone, htxn] at hrun
      rw [List.flatten_singleton]
      exact ⟨t, hrun, ht⟩
    · rw [chunkSizes_of_lt (by omega) (by omega)] at hchunks
      obtain ⟨r, rest, rfl, hr, hrest⟩ := List.map_eq_cons_iff.1 hchunks
      have hnext := nextChunk_of_gt hregs (not_le.1 hlast)
      obtain ⟨t, hrun, ht, htphase, htxn⟩ :=
        readChunks_run (by omega) (by rw [hnext, hr]) hsends hreceives fuel
      have hne : rest ≠ [] := by
        rintro rfl
        obtain ⟨hsum, -⟩ :=
          chunkSizes_sum_pos (c := s.chunkSize.toNat) (n := s.txn.rem - s.chunkSize.toNat) (by omega) (by omega)
        rw [← hrest, List.map_nil, List.sum_nil] at hsum
        omega
      have hremaining : t.txn.rem = s.txn.rem - s.chunkSize.toNat := by rw [htxn, hr]
      have hloop := ih (ht.registers hregs) (ht.chunkSize ▸ hsize) (htphase.trans hphase) (by omega) (by omega)
        (by rw [hrest, hremaining, ht.chunkSize]) (congrArg Env.sends ht.env) (congrArg Env.receives ht.env)
      have h := hloop.after hrun ht
      rw [hnext, hphase, ht.par, ht.tpl, ht.attempt, htxn, List.append_assoc] at h
      rw [readCalls_cons hne, hr]
      rwa [hr] at h

theorem readPhase_progresses {n : Nat} {chunks : List Bytes} (hregs : s.RegistersOk) (hsize : 1 ≤ s.chunkSize)
    (hn : 1 ≤ n) (hchunks : chunks.map List.length = chunkSizes s.chunkSize.toNat n)
    (hsends : s.env.sends = List.replicate chunks.length true ++ sends)
    (hreceives : s.env.receives = chunks ++ receives) :
    (readPhase n s).Progresses s (.acked chunks.flatten) sends receives (readCalls s.par s.tpl s.attempt chunks) :=
  .after rfl ((progress_setPhase s (p := .payload) (by decide)).trans (progress_readRegs (s.setPhase .payload) n []))
    (readChunks_progresses (s := (s.setPhase .payload).setTxn { s.txn with rem := n, rbuf := [] }) hregs hsize rfl hn
      le_rfl hchunks hsends hreceives)

/-! #### The attempt (R168 to R170) -/

theorem ifAcked_progresses {p : Proc PhaseOutcome} {k : State → Proc PhaseOutcome} {d : Bytes} {o : PhaseOutcome}
    (h : p.Progresses s (.acked d) sends receives l)
    (hk : ∀ t, Progress s t sends receives l → (k t).Progresses t o sends' receives' l') :
    (ifAcked p k).Progresses s o sends' receives' (l ++ l') :=
  h.andThen hk

theorem body_exchange_progresses {p q : Byte} {acks : Bytes} {chunks : List Bytes} (hop : s.txn.op = .exchange)
    (hregs : s.RegistersOk) (hsize : 1 ≤ s.chunkSize) (hrlen : 1 ≤ s.txn.rlen)
    (hlength : acks.length = s.txn.out.length)
    (hchunks : chunks.map List.length = chunkSizes s.chunkSize.toNat s.txn.rlen) (hacks : AllAck (p :: q :: acks))
    (hsends : s.env.sends =
      true :: (List.replicate s.txn.out.length true ++ true :: (List.replicate chunks.length true ++ sends)))
    (hreceives : s.env.receives = [p] :: (acks.map (fun b => [b]) ++ [q] :: (chunks ++ receives))) :
    (body s).Progresses s (.acked chunks.flatten) sends receives
      (prologCalls s.par s.tpl s.attempt s.txn.abW [p] ++ (writeCalls s.par s.tpl s.attempt s.txn.out acks ++
        (prologCalls s.par s.tpl s.attempt s.txn.abR [q] ++ readCalls s.par s.tpl s.attempt chunks))) := by
  obtain ⟨hp, hacks⟩ := List.forall_mem_cons.1 hacks
  obtain ⟨hq, hacks⟩ := List.forall_mem_cons.1 hacks
  rw [body, hop]
  refine ifAcked_progresses (prolog_progresses hp hsends hreceives _) fun t ht => ?_
  rw [← ht.par, ← ht.tpl, ← ht.attempt, ← ht.frame.abR, ← ht.frame.out]
  refine ifAcked_progresses (writePhase_progresses (ht.frame.out ▸ hlength) hacks (by rw [ht.env, ht.frame.out])
    (by rw [ht.env])) fun u hu => ?_
  rw [← hu.par, ← hu.tpl, ← hu.attempt, ← hu.frame.abR]
  refine ifAcked_progresses (prolog_progresses hq (congrArg Env.sends hu.env) (congrArg Env.receives hu.env) _)
    fun v hv => ?_
  rw [← hv.par, ← hv.tpl, ← hv.attempt]
  have h := (ht.trans hu).trans hv
  refine readPhase_progresses (h.registers hregs) (h.chunkSize ▸ hsize) (h.frame.rlen ▸ hrlen) ?_
    (congrArg Env.sends hv.env) (congrArg Env.receives hv.env)
  rw [hchunks, h.chunkSize, h.frame.rlen]

/-- A body that ended in `Acked` is followed by the epilog. -/
theorem attemptOnce_progresses {d e : Bytes} (h : (body s).Progresses s (.acked d) (true :: sends) (e :: receives) l) :
    (attemptOnce s).Progresses s (.acked d) sends receives (l ++ epilogCalls s.par s.tpl s.attempt (e.take 1)) := by
  refine h.andThen fun t ht => ?_
  rw [← ht.par, ← ht.tpl, ← ht.attempt]
  obtain ⟨u, hrun, hu⟩ := epilog_progresses (congrArg Env.sends ht.env) (congrArg Env.receives ht.env)
  exact ⟨u, Proc.run_andThen_of_done hrun _, hu⟩

/-- An operation whose first attempt ended in `Acked`. -/
theorem run_progresses {d e : Bytes}
    (h : (body (s.setAttempt 1)).Progresses (s.setAttempt 1) (.acked d) (true :: sends) (e :: receives) l) :
    (run s).Progresses (s.setAttempt 1) (resultOf s.txn.op (.acked d)) sends receives
      (l ++ epilogCalls s.par s.tpl 1 (e.take 1)) := by
  obtain ⟨t, hrun, ht⟩ := attemptOnce_progresses h
  refine ⟨t, ?_, ht⟩
  have hattempts : (attempts Config.attemptsMax s).run = .done (.acked d) t := Proc.run_andThen_of_done hrun _
  exact Proc.run_andThen_of_done hattempts _

end Progress

/-- The calls of an exchange acknowledged throughout (R197). -/
def exchangeCalls (P : Params) (t : Templates) (a : Nat) (out : Bytes) (p : Byte) (acks : Bytes) (q : Byte)
    (chunks : List Bytes) (e : Bytes) : List CallRecord :=
  prologCalls P t 1 (addressByte a false) [p] ++ writeCalls P t 1 out acks ++
    prologCalls P t 1 (addressByte a true) [q] ++ readCalls P t 1 chunks ++ epilogCalls P t 1 (e.take 1)

/-- The transaction registers `exchange` writes (R193). -/
def exchangeTxn (a : Nat) (out : Bytes) (n : Nat) (x : Transaction) : Transaction :=
  { x with op := .exchange, abW := addressByte a false, abR := addressByte a true, out := out, rlen := n }

/-- An exchange that is answered throughout makes exactly these calls (R193, R197). -/
theorem exchange_calls {s t : State} {a : Nat} {out : Bytes} {n : Nat} {p : Byte} {acks : Bytes} {q : Byte}
    {chunks : List Bytes} {e : Bytes} (h : ExchangeScript s a out n p acks q chunks e)
    (ht : exec (.exchange a out n) s = .next t) :
    t.calls = s.calls ++ exchangeCalls s.par s.tpl a out p acks q chunks e := by
  obtain ⟨⟨hfree, hconf, hinv⟩, ha, hout, hn, hmax, hsize, hlength, hchunks, hacks, ⟨sends, hsends⟩, receives,
    hreceives⟩ := h
  obtain ⟨hregs, -⟩ := (State.inv_iff s).1 hinv
  have hop : exchangeOp a out n s = .running (run (s.setTxn (exchangeTxn a out n s.txn))) :=
    exchangeOp_of_valid hfree (validateExchange_eq_none_iff.2 ⟨ha, hout, hn, hmax, hconf⟩) hsize
  have hsends' : s.env.sends =
      true :: (List.replicate out.length true ++ true :: (List.replicate chunks.length true ++ true :: sends)) := by
    rw [← hsends, show out.length + chunks.length + 3 = out.length + (chunks.length + 1 + 1) + 1 by omega,
      List.replicate_succ, List.replicate_add, List.replicate_succ, List.replicate_succ']
    simp only [List.cons_append, List.append_assoc, List.nil_append]
  have hreceives' : s.env.receives = [p] :: (acks.map (fun b => [b]) ++ [q] :: (chunks ++ e :: receives)) := by
    rw [← hreceives]
    simp only [List.cons_append, List.append_assoc, List.nil_append]
  have hregs' : ((s.setTxn (exchangeTxn a out n s.txn)).setAttempt 1).RegistersOk := hregs.setAttempt (by decide)
  obtain ⟨u, hrun, hu⟩ := run_progresses
    (body_exchange_progresses (s := (s.setTxn (exchangeTxn a out n s.txn)).setAttempt 1) rfl hregs' hsize hn hlength
      hchunks hacks hsends' hreceives')
  rw [exec_of_operation rfl, hop, Operation.outcome_running, hrun, Run.outcome_done, Host.Outcome.next.injEq] at ht
  rw [← ht, State.respond_calls, State.setPhase_calls, hu.calls]
  simp only [exchangeCalls, List.append_assoc]
  rfl

/-! ### The bytes of the calls (R61) -/

section TxBytes

variable (P : Params)

theorem flatMap_txBytes_roundTripCalls (p : Phase) (attempt : Nat) (buffer : Bytes) (n budget : Nat) (r : Bytes) :
    (roundTripCalls p attempt buffer n budget r).flatMap CallRecord.txBytes = buffer := List.append_nil _

theorem flatMap_txBytes_writeCalls {out acks : Bytes} (h : acks.length = out.length) (attempt : Nat) :
    (writeCalls P (buildTemplates P) attempt out acks).flatMap CallRecord.txBytes =
      unitsBytes P (out.flatMap wuUnits) := by
  induction out generalizing acks with
  | nil => cases acks <;> rfl
  | cons b out ih =>
    obtain ⟨a, acks, rfl⟩ := List.exists_cons_of_length_eq_add_one h
    rw [writeCalls, List.flatMap_append, flatMap_txBytes_roundTripCalls, ih (Nat.succ.inj h), buildTemplates_wu,
      List.flatMap_cons, unitsBytes_append]

/-- A chunk before a last chunk makes a longer last chunk. -/
theorem chunkMidUnits_append_chunkLastUnits (k : Nat) {n : Nat} (hn : 1 ≤ n) :
    chunkMidUnits k ++ chunkLastUnits n = chunkLastUnits (k + n) := by
  have hrep : rep (k + n - 1) ruAckUnits = rep k ruAckUnits ++ rep (n - 1) ruAckUnits := by
    rw [Nat.add_sub_assoc hn, rep, List.replicate_add, List.flatten_append]
    rfl
  simp only [chunkMidUnits, chunkLastUnits, hrep, List.append_assoc]

/-- However a read is cut into chunks, its units are those of one last chunk (R146). -/
theorem flatMap_txBytes_readCalls {chunks : List Bytes} (hne : chunks ≠ []) (hall : ∀ r ∈ chunks, 1 ≤ r.length)
    (attempt : Nat) :
    (readCalls P (buildTemplates P) attempt chunks).flatMap CallRecord.txBytes =
      unitsBytes P (chunkLastUnits chunks.flatten.length) := by
  induction chunks with
  | nil => exact absurd rfl hne
  | cons r rest ih =>
    by_cases hrest : rest = []
    · subst hrest
      rw [readCalls, flatMap_txBytes_roundTripCalls, buildTemplates_chunkLast, List.flatten_singleton]
    · have hall' := fun q hq => hall q (List.mem_cons_of_mem r hq)
      have hpos : 1 ≤ rest.flatten.length := by
        obtain ⟨q, tail, rfl⟩ := List.exists_cons_of_ne_nil hrest
        have hq := hall' q List.mem_cons_self
        rw [List.flatten_cons, List.length_append]
        omega
      rw [readCalls_cons hrest, List.flatMap_append, flatMap_txBytes_roundTripCalls, ih hrest hall',
        buildTemplates_chunkMid, ← unitsBytes_append, chunkMidUnits_append_chunkLastUnits _ hpos, List.flatten_cons,
        List.length_append]

/-- The units of an exchange. -/
def exchangeUnits (a : Nat) (out : Bytes) (n : Nat) : List CmdUnit :=
  prologUnits (addressByte a false) ++ out.flatMap wuUnits ++ prologUnits (addressByte a true) ++ chunkLastUnits n ++
    stopUnits P

theorem flatMap_txBytes_exchangeCalls {acks out : Bytes} {chunks : List Bytes} (hlength : acks.length = out.length)
    (hne : chunks ≠ []) (hall : ∀ r ∈ chunks, 1 ≤ r.length) (a : Nat) (p q : Byte) (e : Bytes) :
    (exchangeCalls P (buildTemplates P) a out p acks q chunks e).flatMap CallRecord.txBytes =
      unitsBytes P (exchangeUnits P a out chunks.flatten.length) := by
  simp only [exchangeCalls, exchangeUnits, List.flatMap_append, unitsBytes_append, prologCalls, epilogCalls,
    flatMap_txBytes_roundTripCalls, flatMap_txBytes_writeCalls P hlength, flatMap_txBytes_readCalls P hne hall,
    buildTemplates_prologCmd]
  rfl

theorem hasEvents_exchange (a : Nat) (out : Bytes) (n : Nat) :
    HasEvents P (exchangeUnits P a out n)
      ([BusEvent.start, .write (addressByte a false), .slaveAck] ++
        out.flatMap (fun b => [BusEvent.write b, .slaveAck]) ++
        [BusEvent.start, .write (addressByte a true), .slaveAck] ++
        (rep (n - 1) [BusEvent.read, .masterAck] ++ [BusEvent.read, .masterNack]) ++ [BusEvent.stop]) :=
  ((((hasEvents_prolog _).append (.flatMap hasEvents_wu out)).append (hasEvents_prolog _)).append
    (hasEvents_chunkLast n)).append hasEvents_stop

end TxBytes

/-- Settles O60: `v` is the units of `exchangeCalls`, read by the table line by line. -/
theorem exchangeIsOneBusTransaction : Obligations.ExchangeIsOneBusTransaction := by
  intro s t a out n p acks q chunks e hscript hexec
  have hcalls := exchange_calls hscript hexec
  obtain ⟨⟨-, hconf, hinv⟩, -, -, hn, -, hsize, hlength, hchunks, -⟩ := hscript
  obtain ⟨hpar, -, -, hconfig, -⟩ := hinv
  obtain ⟨-, htpl, -⟩ := hconfig hconf
  obtain ⟨-, henc, -⟩ := (Params.ok_iff _).1 hpar
  obtain ⟨hsum, hpos⟩ := chunkSizes_sum_pos (c := s.chunkSize.toNat) (by omega) hn
  rw [← hchunks] at hsum hpos
  have htotal : chunks.flatten.length = n := by rw [List.length_flatten, hsum]
  have hne : chunks ≠ [] := by
    rintro rfl
    rw [← hsum] at hn
    exact absurd hn (by decide)
  refine ⟨unitsBytes s.par (exchangeUnits s.par a out n), ?_, ?_⟩
  · rw [State.txStream, hcalls, List.flatMap_append, htpl,
      flatMap_txBytes_exchangeCalls s.par hlength hne (List.forall_mem_map.1 hpos), htotal]
    rfl
  · rw [unitsOf_unitsBytes henc, (hasEvents_exchange s.par a out n).busEvents_eq]
    simp only [List.append_assoc, List.cons_append, List.nil_append]

end Sys2Proof.Machine
end

section
/-! PROOFS. The phases family (spec/41_phases.md): what the attempts of an operation call, whatever the environment
answers (R160, R169 to R171), and the two ways an operation fails at its first prolog (R161, R170). -/

namespace Sys2Proof.Machine

/-! ### One call, one round trip -/

section Calls

variable {s : State} {sends : List Bool} {receives : List Bytes}

theorem progress_sent (ok : Bool) (v : Bytes) :
    Progress s (sent v ok sends s) sends s.env.receives
      [⟨.sendCommands v, s.phase, s.attempt, bif ok then .ok else .failed⟩] :=
  ⟨rfl, rfl, rfl, ⟨sameConfiguration_refl s, rfl, rfl, rfl, rfl, rfl, rfl, rfl, _, rfl⟩, id⟩

theorem progress_received (n budget : Nat) (r : Bytes) :
    Progress s (received n budget r receives s) s.env.sends receives
      [⟨.receiveBytes n budget, s.phase, s.attempt, .bytes r⟩] :=
  ⟨rfl, rfl, rfl, ⟨sameConfiguration_refl s, rfl, rfl, rfl, rfl, rfl, rfl, rfl, _, rfl⟩, id⟩

/-- The state in which the buffer `v` was accepted and `r` received. -/
def tripped (v : Bytes) (n budget : Nat) (r : Bytes) (sends : List Bool) (receives : List Bytes) (s : State) : State :=
  received n budget r receives (sent v true sends s)

theorem progress_tripped (v : Bytes) (n budget : Nat) (r : Bytes) :
    Progress s (tripped v n budget r sends receives s) sends receives
      (roundTripCalls s.phase s.attempt v n budget r) :=
  (progress_sent true v).trans (progress_received n budget r)

variable (v : Bytes) (n budget : Nat) (k : Bytes → State → Proc PhaseOutcome)

theorem roundTrip_answered {r : Bytes} (hsend : s.env.sends = true :: sends)
    (hreceive : s.env.receives = r :: receives) :
    (roundTrip v n budget s k).run = (k (r.take n) (tripped v n budget (r.take n) sends receives s)).run := by
  have hreceive' : (sent v true sends s).env.receives = r :: receives := hreceive
  rw [roundTrip, Proc.run_andThen_of_done (memWrite_cons v hsend), if_pos rfl,
    Proc.run_andThen_of_done (memRead_cons n budget hreceive'), tripped]

/-- A failed send is a transport failure, and nothing is requested (60_exceptions.md R266 c). -/
theorem roundTrip_failed (hsend : s.env.sends = false :: sends) :
    (roundTrip v n budget s k).run = .done .transport (sent v false sends s) :=
  Proc.run_andThen_of_done (memWrite_cons v hsend) _

theorem roundTrip_unanswered (hsend : s.env.sends = true :: sends) (hreceive : s.env.receives = []) :
    (roundTrip v n budget s k).run = .stuck (hung (.receiveBytes n budget) (sent v true sends s)) := by
  have hreceive' : (sent v true sends s).env.receives = [] := hreceive
  rw [roundTrip, Proc.run_andThen_of_done (memWrite_cons v hsend), if_pos rfl,
    Proc.run_andThen_of_stuck (memRead_nil n budget hreceive')]

end Calls

/-! ### The body, from its first prolog on (R168) -/

theorem ifAcked_roundTrip (v : Bytes) (n budget : Nat) (s : State) (k : Bytes → State → Proc PhaseOutcome)
    (f : State → Proc PhaseOutcome) :
    ifAcked (roundTrip v n budget s k) f = roundTrip v n budget s fun r t => ifAcked (k r t) f := by
  rw [ifAcked, roundTrip, roundTrip, Proc.andThen_assoc]
  congr
  funext ok t
  cases ok with
  | true => exact Proc.andThen_assoc _ _ _
  | false => rfl

/-- What follows the first prolog of a body once it is acknowledged. -/
def afterFirstProlog (op : BusOp) (s : State) : Proc PhaseOutcome :=
  match op with
  | .read => readPhase s.txn.rlen s
  | .write => writePhase s.txn.out s
  | .exchange =>
    ifAcked (writePhase s.txn.out s) fun t => ifAcked (prolog t.txn.abR t) fun u => readPhase u.txn.rlen u
  | .poll => .done (.acked []) s

theorem ifAcked_prolog_done (ab : Byte) (s : State) :
    (ifAcked (prolog ab s) fun t => .done (.acked []) t) = prolog ab s := by
  rw [prolog, ifAcked_roundTrip]
  congr
  funext r t
  cases r with
  | nil => rfl
  | cons b r =>
    rw [ackTest]
    split <;> rfl

theorem body_eq (s : State) : body s = ifAcked (prolog (firstAddressByte s) s) (afterFirstProlog s.txn.op) := by
  unfold body firstAddressByte
  cases s.txn.op with
  | read => rfl
  | write => rfl
  | exchange => rfl
  | poll => exact (ifAcked_prolog_done _ s).symm

/-- A first prolog that is not acknowledged decides the body. -/
theorem body_run_of_not_acked {s t : State} {o : PhaseOutcome} (h : (prolog (firstAddressByte s) s).run = .done o t)
    (ho : ∀ d, o ≠ .acked d) : (body s).run = .done o t := by
  rw [body_eq, ifAcked, Proc.run_andThen_of_done h]
  cases o with
  | acked d => exact absurd rfl (ho d)
  | nack => rfl
  | transport => rfl

/-! ### Attempts that end at their first prolog (R161, R170) -/

/-- The templates are those of parameters a model may be given. -/
def State.Built (s : State) : Prop := s.par.Ok ∧ s.tpl = buildTemplates s.par

theorem State.Ready.built {s : State} (h : s.Ready) : s.Built := by
  obtain ⟨-, hconf, hpar, -, -, hconfig, -⟩ := h
  obtain ⟨-, htpl, -⟩ := hconfig hconf
  exact ⟨hpar, htpl⟩

theorem CmdEngine.execute_stop_idle {P : Params} (hP : P.Ok) (c : CmdEngine) :
    (c.execute P (buildTemplates P).stop).scl = true ∧ (c.execute P (buildTemplates P).stop).sda = true := by
  have hstop : c.execute P (buildTemplates P).stop = (c.units P.pins (stopUnits P)).stopReply := if_pos rfl
  rw [hstop, c.units_stop hP]
  exact ⟨rfl, rfl⟩

section FirstProlog

variable {s : State} {sends : List Bool} {receives : List Bytes} {l : List CallRecord}

theorem prolog_refused {b : Byte} (hb : ackBitOf b = true) (hsend : s.env.sends = true :: sends)
    (hreceive : s.env.receives = [b] :: receives) (ab : Byte) :
    ∃ t, (prolog ab s).run = .done .nack t ∧
      Progress s t sends receives (prologCalls s.par s.tpl s.attempt ab [b]) ∧ t.ackBit = true := by
  have htrip := progress_tripped (s := s.setPhase .prolog) (sends := sends) (receives := receives) (s.tpl.prologCmd ab)
    1 s.par.rxBudget [b]
  refine ⟨_, ?_, (progress_setPhase s (by decide)).trans (htrip.then_silent (progress_setAckBit _ true)), rfl⟩
  rw [prolog, roundTrip_answered (s := s.setPhase .prolog) _ _ _ _ hsend hreceive]
  simp [ackTest, hb]

theorem prolog_silent (hsend : s.env.sends = true :: sends) (hreceive : s.env.receives = [] :: receives) (ab : Byte) :
    ∃ t, (prolog ab s).run = .done .transport t ∧
      Progress s t sends receives (prologCalls s.par s.tpl s.attempt ab []) ∧ t.ackBit = s.ackBit :=
  ⟨_, roundTrip_answered (s := s.setPhase .prolog) _ _ _ _ hsend hreceive,
    (progress_setPhase s (by decide)).trans (progress_tripped (s := s.setPhase .prolog) _ _ _ _), rfl⟩

theorem prolog_failed (hsend : s.env.sends = false :: sends) (ab : Byte) :
    ∃ t, (prolog ab s).run = .done .transport t ∧
      Progress s t sends s.env.receives [⟨.sendCommands (s.tpl.prologCmd ab), .prolog, s.attempt, .failed⟩] :=
  ⟨_, roundTrip_failed (s := s.setPhase .prolog) _ _ _ _ hsend,
    (progress_setPhase s (by decide)).trans (progress_sent (s := s.setPhase .prolog) false _)⟩

/-- A `STOP` that is delivered leaves the acknowledgement flag alone and the bus idle (R136, R162). -/
theorem epilog_delivered {e : Bytes} (hsend : s.env.sends = true :: sends)
    (hreceive : s.env.receives = e :: receives) :
    ∃ t, (epilog s).run = .done (.acked []) t ∧
      Progress s t sends receives (epilogCalls s.par s.tpl s.attempt (e.take 1)) ∧ t.ackBit = s.ackBit ∧
      (s.Built → t.BusIdle) := by
  refine ⟨_, roundTrip_answered (s := s.setPhase .epilog) _ _ _ _ hsend hreceive,
    (progress_setPhase s (by decide)).trans (progress_tripped (s := s.setPhase .epilog) _ _ _ _), rfl, ?_⟩
  rintro ⟨hpar, htpl⟩
  have hidle := s.ce.execute_stop_idle hpar
  rw [← htpl] at hidle
  exact hidle

theorem attemptOutcome_of_acked (b : PhaseOutcome) (d : Bytes) : attemptOutcome b (.acked d) = b := by
  cases b <;> rfl

/-- An attempt whose epilog is delivered comes to what its body came to. -/
theorem attemptOnce_delivered {t : State} {b : PhaseOutcome} {e : Bytes} (hbody : (body s).run = .done b t)
    (ht : Progress s t (true :: sends) (e :: receives) l) :
    ∃ u, (attemptOnce s).run = .done b u ∧
      Progress s u sends receives (l ++ epilogCalls s.par s.tpl s.attempt (e.take 1)) ∧ u.ackBit = t.ackBit ∧
      (s.Built → u.BusIdle) := by
  obtain ⟨u, hepilog, hu, hack, hidle⟩ := epilog_delivered (congrArg Env.sends ht.env) (congrArg Env.receives ht.env)
  have hrun : (attemptOnce s).run = .done b (settleRead b u) := by
    rw [attemptOnce, Proc.run_andThen_of_done hbody, Proc.run_andThen_of_done hepilog, attemptOutcome_of_acked]
    rfl
  have hmade := ht.trans hu
  rw [ht.par, ht.tpl, ht.attempt] at hmade
  have hbuilt : s.Built → t.Built := by
    rintro ⟨hpar, htpl⟩
    exact ⟨ht.par ▸ hpar, by rw [ht.tpl, ht.par, htpl]⟩
  refine ⟨settleRead b u, hrun, ?_, ?_, fun hs => ?_⟩
  · cases b with
    | acked d => exact hmade
    | nack => exact hmade.then_silent (progress_readRegs u u.txn.rem [])
    | transport => exact hmade.then_silent (progress_readRegs u u.txn.rem [])
  · cases b <;> exact hack
  · cases b <;> exact hidle (hbuilt hs)

theorem attemptsFuel_of_nack {t : State} {budget : Nat} (h : (attemptOnce s).run = .done .nack t)
    (ht : t.attempt < budget) (fuel : Nat) :
    (attemptsFuel budget (fuel + 1) s).run = (attemptsFuel budget fuel (t.setAttempt (t.attempt + 1))).run := by
  rw [attemptsFuel, Proc.run_andThen_of_done h, if_pos ⟨rfl, ht⟩]

theorem attemptsFuel_of_end {t : State} {budget : Nat} {o : PhaseOutcome} (h : (attemptOnce s).run = .done o t)
    (ho : o = .nack → budget ≤ t.attempt) (fuel : Nat) : (attemptsFuel budget (fuel + 1) s).run = .done o t := by
  rw [attemptsFuel, Proc.run_andThen_of_done h, if_neg fun hnack => absurd (ho hnack.1) (Nat.not_le.2 hnack.2)]
  rfl

end FirstProlog

/-! #### Refused in every attempt -/

theorem BusFrame.firstAddressByte {s t : State} (h : BusFrame s t) : firstAddressByte t = firstAddressByte s := by
  obtain ⟨-, -, -, -, -, -, -, hpar⟩ := h.config
  unfold Machine.firstAddressByte pollByte
  rw [h.op, h.abR, h.abW, hpar]

/-- The calls of attempts numbered from `k` on, each refused at its first prolog: of each the reply of the prolog and
that of the epilog. -/
def refusedAttempts (P : Params) (t : Templates) (ab : Byte) : Nat → List (Byte × Bytes) → List CallRecord
  | _, [] => []
  | k, (p, e) :: rest => refusedCalls P t k ab p e ++ refusedAttempts P t ab (k + 1) rest

section Refused

variable {s : State} {sends : List Bool} {receives : List Bytes}

theorem attemptOnce_refused {p : Byte} {e : Bytes} (hp : ackBitOf p = true)
    (hsends : s.env.sends = true :: true :: sends) (hreceives : s.env.receives = [p] :: e :: receives) :
    ∃ t, (attemptOnce s).run = .done .nack t ∧
      Progress s t sends receives (refusedCalls s.par s.tpl s.attempt (firstAddressByte s) p e) ∧ t.ackBit = true ∧
      (s.Built → t.BusIdle) := by
  obtain ⟨t, hprolog, ht, hack⟩ := prolog_refused hp hsends hreceives (firstAddressByte s)
  obtain ⟨u, hrun, hu, hack', hidle⟩ := attemptOnce_delivered (body_run_of_not_acked hprolog nofun) ht
  exact ⟨u, hrun, hu, hack'.trans hack, hidle⟩

/-- Refused as often as there are attempts, the retry loop makes them all (R170). -/
theorem attemptsFuel_refused {budget : Nat} {replies : List (Byte × Bytes)} (hne : replies ≠ [])
    (hbudget : s.attempt + replies.length = budget + 1) (hrefused : ∀ r ∈ replies, ackBitOf r.1 = true)
    (hsends : s.env.sends = replies.flatMap (fun _ => [true, true]) ++ sends)
    (hreceives : s.env.receives = replies.flatMap (fun r => [[r.1], r.2]) ++ receives) :
    ∃ t, (attemptsFuel budget replies.length s).run = .done .nack t ∧ BusFrame s t ∧
      t.calls = s.calls ++ refusedAttempts s.par s.tpl (firstAddressByte s) s.attempt replies ∧
      t.attempt = budget ∧ t.ackBit = true ∧ (s.Built → t.BusIdle) := by
  induction replies generalizing s with
  | nil => exact absurd rfl hne
  | cons r rest ih =>
    obtain ⟨hr, hrest⟩ := List.forall_mem_cons.1 hrefused
    obtain ⟨t, hrun, ht, hack, hidle⟩ := attemptOnce_refused hr hsends hreceives
    rw [List.length_cons] at hbudget ⊢
    by_cases hlast : rest = []
    · subst hlast
      have hend : t.attempt = budget := by rw [ht.attempt]; exact Nat.succ.inj hbudget
      refine ⟨t, attemptsFuel_of_end hrun (fun _ => hend.ge) _, ht.frame, ?_, hend, hack, hidle⟩
      rw [ht.calls, refusedAttempts, refusedAttempts, List.append_nil]
    · have hpos := List.length_pos_iff.2 hlast
      have hattempt := ht.attempt
      obtain ⟨u, hrun', hframe, hcalls, hend, hack', hidle'⟩ := ih (s := t.setAttempt (t.attempt + 1)) hlast
        (by rw [State.setAttempt_attempt]; omega) hrest (congrArg Env.sends ht.env) (congrArg Env.receives ht.env)
      have hstep : BusFrame s (t.setAttempt (t.attempt + 1)) := busFrame_closed.trans ht.frame (.setAttempt t _)
      refine ⟨u, (attemptsFuel_of_nack hrun (by omega) _).trans hrun', busFrame_closed.trans hstep hframe, ?_, hend,
        hack', fun ⟨hpar, htpl⟩ => hidle' ⟨?_, ?_⟩⟩
      · rw [hcalls, hstep.firstAddressByte, State.setAttempt_calls, State.setAttempt_par, State.setAttempt_tpl,
          State.setAttempt_attempt, ht.calls, ht.par, ht.tpl, hattempt, List.append_assoc, refusedAttempts]
      · exact ht.par ▸ hpar
      · exact ht.tpl.trans (htpl.trans (congrArg buildTemplates ht.par.symm))

/-- An operation that made the calls `l`, kept the frame and then ends with `r`. -/
theorem BusFrame.opDone {t : State} {x : Transaction} {n : Nat} {l : List CallRecord} (h : BusFrame (s.setTxn x) t)
    (hs : s.free) (hattempt : t.attempt = n) (hcalls : t.calls = s.calls ++ l) (r : Result) :
    OpDone s ((t.setPhase .idle).respond r) r n l := by
  refine ⟨?_, hcalls, rfl, h.pending.trans hs.2, hattempt, h.config⟩
  rw [State.respond_responses, State.setPhase_responses, h.responses, State.setTxn_responses]

/-- An operation of up to three attempts whose prolog is refused in each. -/
theorem exec_absent {i : Instr} {x : Transaction} {p1 p2 p3 : Byte} {e1 e2 e3 : Bytes}
    (ho : operationOf i s = some (.running (run (s.setTxn x)))) (hs : s.Ready) (h1 : ackBitOf p1 = true)
    (h2 : ackBitOf p2 = true) (h3 : ackBitOf p3 = true)
    (hanswers : s.Answers (List.replicate 6 true) [[p1], e1, [p2], e2, [p3], e3]) :
    ∃ t, exec i s = .next t ∧
      OpDone s t (.err .negativeAcknowledgement) 3
        (refusedAttempts s.par s.tpl (firstAddressByte (s.setTxn x)) 1 [(p1, e1), (p2, e2), (p3, e3)]) ∧
      t.ackBit = true ∧ t.BusIdle := by
  obtain ⟨⟨sends, hsends⟩, receives, hreceives⟩ := hanswers
  obtain ⟨t, hrun, hframe, hcalls, hattempt, hack, hidle⟩ :=
    attemptsFuel_refused (s := (s.setTxn x).setAttempt 1) (budget := Config.attemptsMax)
      (replies := [(p1, e1), (p2, e2), (p3, e3)]) (by simp) rfl (by simp [h1, h2, h3]) hsends.symm hreceives.symm
  have hframe' : BusFrame (s.setTxn x) t := busFrame_closed.trans (.setAttempt _ 1) hframe
  have hresult : (run (s.setTxn x)).run = .done (.err .negativeAcknowledgement) t := Proc.run_andThen_of_done hrun _
  refine ⟨(t.setPhase .idle).respond (.err .negativeAcknowledgement), ?_, hframe'.opDone hs.1 hattempt hcalls _, hack,
    hidle hs.built⟩
  rw [exec_of_operation ho, Operation.outcome_running, hresult, Run.outcome_done]

end Refused

/-- Settles O44: each attempt is refused at its first prolog, and the third is the last. -/
theorem absentSlaveIsTriedThreeTimes : Obligations.AbsentSlaveIsTriedThreeTimes := by
  intro s a n out p1 p2 p3 e1 e2 e3 hs ha hout hn h1 h2 h3 hanswers refused
  have ⟨hfree, hconf, _⟩ := hs
  have absent {i : Instr} {x : Transaction} {rw : Bool} (ho : operationOf i s = some (.running (run (s.setTxn x))))
      (hab : firstAddressByte (s.setTxn x) = addressByte a rw) : ∃ t, exec i s = .next t ∧ refused t rw := by
    simpa only [refused, refusedAttempts, hab, List.append_nil, List.append_assoc] using
      exec_absent ho hs h1 h2 h3 hanswers
  refine ⟨fun hc => ?_, ?_, fun hc hmax => ?_⟩
  · have hv := validateRead_eq_none_iff.2 ⟨ha, hn, hconf⟩
    exact absent (congrArg some (readOp_of_valid hfree hv hc)) rfl
  · have hv := validateWrite_eq_none_iff.2 ⟨ha, hout, hconf⟩
    exact absent (congrArg some (writeOp_of_valid hfree hv)) rfl
  · have hv := validateExchange_eq_none_iff.2 ⟨ha, hout, hn, hmax, hconf⟩
    exact absent (congrArg some (exchangeOp_of_valid hfree hv hc)) rfl

/-! #### A transport failure in the first prolog -/

/-- What `Obligations.FirstPrologTransportFailure` asks of one operation from `s` to `t`, `ab` being its address byte
and `e` the epilog's reply. -/
def FirstPrologFailed (s t : State) (ab : Byte) (e : Bytes) : Prop :=
  (s.Answers [false, true] [e] → OpDone s t (.err .transportError) 1 (failedSendCalls s.par s.tpl 1 ab e)) ∧
    (s.Answers [true, true] [[], e] →
      OpDone s t (.err .transportError) 1 (silentCalls s.par s.tpl 1 ab e) ∧ t.ackBit = s.ackBit)

section Failed

variable {s : State} {e : Bytes}

/-- The first send is answered one way. -/
theorem not_failed_and_silent (hf : s.Answers [false, true] [e]) (hs : s.Answers [true, true] [[], e]) : False := by
  obtain ⟨⟨rest, hrest⟩, -⟩ := hf
  obtain ⟨⟨rest', hrest'⟩, -⟩ := hs
  exact absurd (hrest.trans hrest'.symm) (by simp)

/-- An attempt that fails at its first prolog. -/
theorem attemptOnce_firstPrologFailed (h : s.Answers [false, true] [e] ∨ s.Answers [true, true] [[], e]) :
    ∃ t l, (attemptOnce s).run = .done .transport t ∧ BusFrame s t ∧ t.attempt = s.attempt ∧ t.calls = s.calls ++ l ∧
      (s.Answers [false, true] [e] → l = failedSendCalls s.par s.tpl s.attempt (firstAddressByte s) e) ∧
      (s.Answers [true, true] [[], e] →
        l = silentCalls s.par s.tpl s.attempt (firstAddressByte s) e ∧ t.ackBit = s.ackBit) := by
  rcases h with hf | hs
  · obtain ⟨⟨sends, hsends⟩, receives, hreceives⟩ := id hf
    obtain ⟨t, hprolog, ht⟩ := prolog_failed hsends.symm (firstAddressByte s)
    rw [← hreceives] at ht
    obtain ⟨u, hrun, hu, -⟩ := attemptOnce_delivered (body_run_of_not_acked hprolog nofun) ht
    exact ⟨u, _, hrun, hu.frame, hu.attempt, hu.calls, fun _ => rfl, fun hs => (not_failed_and_silent hf hs).elim⟩
  · obtain ⟨⟨sends, hsends⟩, receives, hreceives⟩ := id hs
    obtain ⟨t, hprolog, ht, hack⟩ := prolog_silent hsends.symm hreceives.symm (firstAddressByte s)
    obtain ⟨u, hrun, hu, hack', -⟩ := attemptOnce_delivered (body_run_of_not_acked hprolog nofun) ht
    exact ⟨u, _, hrun, hu.frame, hu.attempt, hu.calls, fun hf => (not_failed_and_silent hf hs).elim,
      fun _ => ⟨rfl, hack'.trans hack⟩⟩

/-- A bus operation that fails at its first prolog ends in its first attempt (R171). -/
theorem exec_firstPrologFailed {i : Instr} {o : Operation} {x : Transaction} {ab : Byte}
    (ho : operationOf i s = some o) (hp : o = .running (run (s.setTxn x)) ∨ o = .running (runPoll (s.setTxn x)))
    (hab : firstAddressByte (s.setTxn x) = ab) (hs : s.free)
    (h : s.Answers [false, true] [e] ∨ s.Answers [true, true] [[], e]) :
    ∃ t, exec i s = .next t ∧ FirstPrologFailed s t ab e := by
  obtain ⟨t, l, hrun, hframe, hattempt, hcalls, hfailed, hsilent⟩ :=
    attemptOnce_firstPrologFailed (s := (s.setTxn x).setAttempt 1) h
  have hattempts (budget : Nat) : (attempts (budget + 1) (s.setTxn x)).run = .done .transport t :=
    attemptsFuel_of_end hrun nofun _
  have hframe' : BusFrame (s.setTxn x) t := busFrame_closed.trans (.setAttempt _ 1) hframe
  have hdone := hframe'.opDone hs hattempt hcalls (.err .transportError)
  refine ⟨(t.setPhase .idle).respond (.err .transportError), ?_, fun hf => ?_, fun hs => ?_⟩
  · rw [exec_of_operation ho]
    rcases hp with rfl | rfl <;>
      exact congrArg Run.outcome (Proc.run_andThen_of_done (hattempts _) _)
  · rw [← hab]
    exact hfailed hf ▸ hdone
  · rw [← hab]
    exact ⟨(hsilent hs).1 ▸ hdone, (hsilent hs).2⟩

end Failed

/-- Settles O45: the body ends at its first prolog, the epilog follows, and a transport failure is not retried. -/
theorem firstPrologTransportFailure : Obligations.FirstPrologTransportFailure := by
  rintro s a n out e ⟨hfree, hconf, -⟩ ha hout hn failed h
  refine ⟨fun hc => ?_, ?_, fun hc hmax => ?_, ?_⟩
  · have hv := validateRead_eq_none_iff.2 ⟨ha, hn, hconf⟩
    exact exec_firstPrologFailed rfl (.inl (readOp_of_valid hfree hv hc)) rfl hfree h
  · have hv := validateWrite_eq_none_iff.2 ⟨ha, hout, hconf⟩
    exact exec_firstPrologFailed rfl (.inl (writeOp_of_valid hfree hv)) rfl hfree h
  · have hv := validateExchange_eq_none_iff.2 ⟨ha, hout, hn, hmax, hconf⟩
    exact exec_firstPrologFailed rfl (.inl (exchangeOp_of_valid hfree hv hc)) rfl hfree h
  · have hv := validatePoll_eq_none_iff.2 ⟨ha, hconf⟩
    exact exec_firstPrologFailed rfl (.inr (pollOp_of_valid hfree hv)) (firstAddressByte_poll a s) hfree h

/-! ### What a procedure calls, whatever the environment answers -/

/-- From `s` to `t` the engine made the calls `l`, all of which returned. -/
def Made (s t : State) (l : List CallRecord) : Prop := ∃ sends receives, Progress s t sends receives l

/-- From `s` to `t` the engine made the calls `l`, the last of which did not return (20_memory.md R78). -/
structure Halted (s t : State) (l : List CallRecord) : Prop where
  pending : t.pending ≠ none
  attempt : t.attempt = s.attempt
  calls : t.calls = s.calls ++ l

section Made

variable {s t u : State} {l l' : List CallRecord}

theorem Made.trans (h : Made s t l) (h' : Made t u l') : Made s u (l ++ l') := by
  obtain ⟨_, _, hst⟩ := h
  obtain ⟨sends, receives, htu⟩ := h'
  exact ⟨sends, receives, hst.trans htu⟩

theorem Made.frame (h : Made s t l) : BusFrame s t := by
  obtain ⟨_, _, hst⟩ := h
  exact hst.frame

theorem Made.attempt (h : Made s t l) : t.attempt = s.attempt := by
  obtain ⟨_, _, hst⟩ := h
  exact hst.attempt

theorem Made.calls (h : Made s t l) : t.calls = s.calls ++ l := by
  obtain ⟨_, _, hst⟩ := h
  exact hst.calls

theorem Made.halted (h : Made s t l) (h' : Halted t u l') : Halted s u (l ++ l') where
  pending := h'.pending
  attempt := h'.attempt.trans h.attempt
  calls := by rw [h'.calls, h.calls, List.append_assoc]

theorem halted_hung (c : Call) (s : State) : Halted s (hung c s) [⟨c, s.phase, s.attempt, .never⟩] :=
  ⟨nofun, rfl, rfl⟩

end Made

/-- Whatever the environment answers, the calls of the procedure have `T` with its outcome, or with `none` where the
last of them did not return. -/
def Proc.CallsAre (s : State) (p : Proc PhaseOutcome) (T : Option PhaseOutcome → List CallRecord → Prop) : Prop :=
  p.Ensures (fun o t => ∃ l, Made s t l ∧ T (some o) l) fun t => ∃ l, Halted s t l ∧ T none l

section CallsAre

variable {s t : State} {p : Proc PhaseOutcome} {T U : Option PhaseOutcome → List CallRecord → Prop}

theorem Proc.CallsAre.mono (h : p.CallsAre s T) (hTU : ∀ o l, T o l → U o l) : p.CallsAre s U :=
  Proc.Ensures.mono h (fun _ _ ⟨l, hmade, hT⟩ => ⟨l, hmade, hTU _ l hT⟩)
    fun _ ⟨l, hhalted, hT⟩ => ⟨l, hhalted, hTU _ l hT⟩

theorem Proc.CallsAre.after {l : List CallRecord} (h : Made s t l) (hp : p.CallsAre t fun o l' => T o (l ++ l')) :
    p.CallsAre s T :=
  Proc.Ensures.mono hp (fun _ _ ⟨l', hmade, hT⟩ => ⟨l ++ l', h.trans hmade, hT⟩)
    fun _ ⟨l', hhalted, hT⟩ => ⟨l ++ l', h.halted hhalted, hT⟩

theorem Proc.callsAre_done {o : PhaseOutcome} (h : T (some o) []) : (Proc.done o s).CallsAre s T :=
  ⟨[], ⟨_, _, .refl s⟩, h⟩

theorem Proc.CallsAre.andThen {f : PhaseOutcome → State → Proc PhaseOutcome} (h : p.CallsAre s T)
    (hstuck : ∀ l, T none l → U none l)
    (hf : ∀ o t l, Made s t l → T (some o) l → (f o t).CallsAre t fun o' l' => U o' (l ++ l')) :
    (p.andThen f).CallsAre s U := by
  have hp := Proc.Ensures.mono h (fun _ _ => id) fun t ⟨l, hhalted, hT⟩ =>
    (⟨l, hhalted, hstuck l hT⟩ : ∃ l, Halted s t l ∧ U none l)
  exact hp.andThen fun o t ⟨l, hmade, hT⟩ => (hf o t l hmade hT).after hmade

/-- Everything the two calls of a round trip can come to. -/
theorem roundTrip_calls {v : Bytes} {n budget : Nat} {f : Bytes → State → Proc PhaseOutcome}
    (hfailed : T (some .transport) [⟨.sendCommands v, s.phase, s.attempt, .failed⟩])
    (hstalled : T none [⟨.sendCommands v, s.phase, s.attempt, .never⟩])
    (hunanswered : T none [⟨.sendCommands v, s.phase, s.attempt, .ok⟩,
      ⟨.receiveBytes n budget, s.phase, s.attempt, .never⟩])
    (hf : ∀ r t, r.length ≤ n → Made s t (roundTripCalls s.phase s.attempt v n budget r) → t.txn = s.txn →
      t.phase = s.phase → (f r t).CallsAre t fun o l => T o (roundTripCalls s.phase s.attempt v n budget r ++ l)) :
    (roundTrip v n budget s f).CallsAre s T := by
  match hsends : s.env.sends, hreceives : s.env.receives with
  | [], _ =>
    exact (Proc.ensures_of_run_stuck (roundTrip_stalled hsends v n budget f)).2 ⟨_, ⟨nofun, rfl, rfl⟩, hstalled⟩
  | false :: _, _ =>
    exact (Proc.ensures_of_run_done (roundTrip_failed v n budget f hsends)).2
      ⟨_, ⟨_, _, progress_sent false v⟩, hfailed⟩
  | true :: sends, [] =>
    have hsent : Made s (sent v true sends s) _ := ⟨_, _, progress_sent true v⟩
    exact (Proc.ensures_of_run_stuck (roundTrip_unanswered v n budget f hsends hreceives)).2
      ⟨_, hsent.halted (halted_hung _ _), hunanswered⟩
  | true :: sends, r :: receives =>
    obtain ⟨t, ht, hphase, htxn, hrun⟩ := roundTrip_run hsends hreceives v n budget
    have hmade : Made s t (roundTripCalls s.phase s.attempt v n budget (r.take n)) := ⟨_, _, ht⟩
    have hrest := (hf (r.take n) t (List.length_take_le n r) hmade htxn hphase).after hmade
    unfold Proc.CallsAre Proc.Ensures at hrest ⊢
    rwa [hrun f]

end CallsAre

/-! #### The body (R161 to R168) -/

/-- What part of the body of attempt `k` called: `l`, at most `bound` calls, which came to `o`. -/
structure BodyCalls (P : Params) (T : Templates) (k bound : Nat) (o : Option PhaseOutcome) (l : List CallRecord) :
    Prop where
  attempt : ∀ r ∈ l, r.attempt = k
  phase : ∀ r ∈ l, r.phase = .prolog ∨ r.phase = .payload
  length : l.length ≤ bound
  failure : ∀ r ∈ l, r.transportFailure → o = some .transport
  refused : o = some .nack → ∃ m r q, l = m ++ [r, q] ∧ RefusedByte P T r q

/-- The first of the calls is `c`, made in phase `p`. -/
def StartsWith (p : Phase) (c : Call) (l : List CallRecord) : Prop := ∃ r, l.head? = some r ∧ r.phase = p ∧ r.call = c

/-- `ATTEMPT`, the templates and the parameters, which no call changes. -/
def State.InAttempt (P : Params) (T : Templates) (k : Nat) (s : State) : Prop := s.par = P ∧ s.tpl = T ∧ s.attempt = k

theorem Made.inAttempt {P : Params} {T : Templates} {k : Nat} {s t : State} {l : List CallRecord} (h : Made s t l)
    (hs : s.InAttempt P T k) : t.InAttempt P T k := by
  obtain ⟨_, _, hst⟩ := h
  obtain ⟨rfl, rfl, rfl⟩ := hs
  exact ⟨hst.par, hst.tpl, hst.attempt⟩

section Body

variable {P : Params} {T : Templates} {k bound bound' n budget : Nat} {s : State} {l l' : List CallRecord}
  {o : Option PhaseOutcome} {v : Bytes} {p : Phase}

theorem BodyCalls.nil (d : Bytes) : BodyCalls P T k bound (some (.acked d)) [] :=
  ⟨nofun, nofun, Nat.zero_le _, nofun, nofun⟩

theorem BodyCalls.mono (h : BodyCalls P T k bound o l) (hle : bound ≤ bound') : BodyCalls P T k bound' o l :=
  ⟨h.attempt, h.phase, h.length.trans hle, h.failure, h.refused⟩

/-- What came after calls that were acknowledged. -/
theorem BodyCalls.append {d : Bytes} (h : BodyCalls P T k bound (some (.acked d)) l)
    (h' : BodyCalls P T k bound' o l') : BodyCalls P T k (bound + bound') o (l ++ l') where
  attempt := List.forall_mem_append.2 ⟨h.attempt, h'.attempt⟩
  phase := List.forall_mem_append.2 ⟨h.phase, h'.phase⟩
  length := by
    rw [List.length_append]
    exact Nat.add_le_add h.length h'.length
  failure := List.forall_mem_append.2 ⟨fun r hr hfailed => absurd (h.failure r hr hfailed) nofun, h'.failure⟩
  refused ho := by
    obtain ⟨m, r, q, rfl, hbyte⟩ := h'.refused ho
    exact ⟨l ++ m, r, q, (List.append_assoc _ _ _).symm, hbyte⟩

theorem bodyCalls_sendFailed (hp : p = .prolog ∨ p = .payload) :
    BodyCalls P T k 2 (some .transport) [⟨.sendCommands v, p, k, .failed⟩] :=
  ⟨by simp, by simpa using hp, by simp, fun _ _ _ => rfl, nofun⟩

theorem bodyCalls_sendStalled (hp : p = .prolog ∨ p = .payload) :
    BodyCalls P T k 2 none [⟨.sendCommands v, p, k, .never⟩] :=
  ⟨by simp, by simpa using hp, by simp, by simp [CallRecord.transportFailure], nofun⟩

theorem bodyCalls_unanswered (hp : p = .prolog ∨ p = .payload) :
    BodyCalls P T k 2 none [⟨.sendCommands v, p, k, .ok⟩, ⟨.receiveBytes n budget, p, k, .never⟩] :=
  ⟨by simp, by simpa using hp, by simp, by simp [CallRecord.transportFailure], nofun⟩

/-- A round trip that came back: a short reply is a transport failure, and only a refused byte is a refusal. -/
theorem bodyCalls_trip {r : Bytes} (hp : p = .prolog ∨ p = .payload)
    (hshort : r.length < n → o = some .transport)
    (hrefused : o = some .nack →
      RefusedByte P T ⟨.sendCommands v, p, k, .ok⟩ ⟨.receiveBytes n budget, p, k, .bytes r⟩) :
    BodyCalls P T k 2 o (roundTripCalls p k v n budget r) where
  attempt := by simp [roundTripCalls]
  phase := by simpa [roundTripCalls] using hp
  length := by simp [roundTripCalls]
  failure := by simpa [roundTripCalls, CallRecord.transportFailure] using fun _ => hshort
  refused ho := ⟨[], _, _, rfl, hrefused ho⟩

theorem roundTrip_bodyCalls {f : Bytes → State → Proc PhaseOutcome} (hs : s.InAttempt P T k)
    (hp : s.phase = .prolog ∨ s.phase = .payload)
    (hf : ∀ r t, r.length ≤ n → Made s t (roundTripCalls s.phase k v n budget r) → t.txn = s.txn →
      t.phase = s.phase →
      (f r t).CallsAre t fun o l => BodyCalls P T k (2 + bound) o (roundTripCalls s.phase k v n budget r ++ l)) :
    (roundTrip v n budget s f).CallsAre s fun o l =>
      BodyCalls P T k (2 + bound) o l ∧ StartsWith s.phase (.sendCommands v) l := by
  obtain ⟨rfl, rfl, rfl⟩ := hs
  have hle : 2 ≤ 2 + bound := Nat.le_add_right 2 bound
  exact roundTrip_calls ⟨(bodyCalls_sendFailed hp).mono hle, _, rfl, rfl, rfl⟩
    ⟨(bodyCalls_sendStalled hp).mono hle, _, rfl, rfl, rfl⟩ ⟨(bodyCalls_unanswered hp).mono hle, _, rfl, rfl, rfl⟩
    fun r t hr hmade htxn hphase => (hf r t hr hmade htxn hphase).mono fun _ _ hl => ⟨hl, _, rfl, rfl, rfl⟩

/-- Everything the acknowledgement test of at most one reply byte can come to. -/
theorem ackTest_cases {r : Bytes} (hr : r.length ≤ 1) (t : State) :
    (r = [] ∧ ackTest r t = .done .transport t) ∨
      ∃ b, r = [b] ∧ ((ackBitOf b = true ∧ ackTest r t = .done .nack (t.setAckBit true)) ∨
        (ackBitOf b = false ∧ ackTest r t = .done (.acked []) (t.setAckBit false))) := by
  match r, hr with
  | [], _ => exact .inl ⟨rfl, rfl⟩
  | [b], _ =>
    refine .inr ⟨b, rfl, ?_⟩
    cases hb : ackBitOf b with
    | true => exact .inl ⟨rfl, by simp [ackTest, hb]⟩
    | false => exact .inr ⟨rfl, ackTest_of_ack hb t⟩

/-- A byte is sent and, if it is acknowledged, the body goes on (R161, R163). -/
theorem ackedTrip_calls {f : State → Proc PhaseOutcome} (hs : s.InAttempt P T k)
    (hv : ∃ x, (s.phase = .prolog ∧ v = T.prologCmd x) ∨ (s.phase = .payload ∧ v = T.wu x))
    (hf : ∀ t l, Made s t l → t.phase = s.phase → (f t).CallsAre t (BodyCalls P T k bound)) :
    (roundTrip v 1 s.par.rxBudget s fun r t => ifAcked (ackTest r t) f).CallsAre s fun o l =>
      BodyCalls P T k (2 + bound) o l ∧ StartsWith s.phase (.sendCommands v) l := by
  have hp : s.phase = .prolog ∨ s.phase = .payload := by
    obtain ⟨x, ⟨hp, -⟩ | ⟨hp, -⟩⟩ := hv
    · exact .inl hp
    · exact .inr hp
  have ended {t : State} {r : Bytes} {o : PhaseOutcome}
      (h : BodyCalls P T k 2 (some o) (roundTripCalls s.phase k v 1 s.par.rxBudget r)) :
      (Proc.done o t).CallsAre t fun o l =>
        BodyCalls P T k (2 + bound) o (roundTripCalls s.phase k v 1 s.par.rxBudget r ++ l) :=
    Proc.callsAre_done (h.mono (Nat.le_add_right 2 bound))
  refine roundTrip_bodyCalls hs hp fun r t hr hmade _ hphase => ?_
  rcases ackTest_cases hr t with ⟨rfl, htest⟩ | ⟨b, rfl, ⟨hb, htest⟩ | ⟨hb, htest⟩⟩ <;> rw [htest]
  · exact ended (bodyCalls_trip hp (fun _ => rfl) nofun)
  · have hnack : Made t (t.setAckBit true) [] := ⟨_, _, progress_setAckBit t true⟩
    refine Proc.CallsAre.after hnack (ended (bodyCalls_trip hp (by simp) fun _ => ?_))
    obtain ⟨rfl, rfl, rfl⟩ := hs
    obtain ⟨x, hv⟩ := hv
    exact ⟨x, b, hb, rfl, hv.imp (And.imp_right (congrArg _)) (And.imp_right (congrArg _)), rfl⟩
  · have hack : Made t (t.setAckBit false) [] := ⟨_, _, progress_setAckBit t false⟩
    have htrip : BodyCalls P T k 2 (some (.acked [])) (roundTripCalls s.phase k v 1 s.par.rxBudget [b]) :=
      bodyCalls_trip hp (by simp) nofun
    exact ((hf _ _ (hmade.trans hack) hphase).mono fun _ _ => htrip.append).after hack

theorem ifAcked_calls {q : Proc PhaseOutcome} {f : State → Proc PhaseOutcome} (h : q.CallsAre s (BodyCalls P T k bound))
    (hf : ∀ t l, Made s t l → (f t).CallsAre t (BodyCalls P T k bound')) :
    (ifAcked q f).CallsAre s (BodyCalls P T k (bound + bound')) := by
  have hle : bound ≤ bound + bound' := Nat.le_add_right bound bound'
  refine h.andThen (fun l hl => hl.mono hle) fun o t l hmade hl => ?_
  cases o with
  | acked d => exact (hf t l hmade).mono fun _ _ => hl.append
  | nack => exact Proc.callsAre_done ((List.append_nil l).symm ▸ hl.mono hle)
  | transport => exact Proc.callsAre_done ((List.append_nil l).symm ▸ hl.mono hle)

theorem prolog_calls (hs : s.InAttempt P T k) (ab : Byte) : (prolog ab s).CallsAre s (BodyCalls P T k 2) := by
  have hmade : Made s (s.setPhase .prolog) [] := ⟨_, _, progress_setPhase s (by decide)⟩
  obtain ⟨rfl, rfl, rfl⟩ := id hs
  rw [← ifAcked_prolog_done, prolog, ifAcked_roundTrip]
  have htrip := ackedTrip_calls (bound := 0) (hmade.inAttempt hs) ⟨ab, .inl ⟨rfl, rfl⟩⟩
    fun t l _ _ => Proc.callsAre_done (.nil [])
  exact Proc.CallsAre.after hmade (htrip.mono fun _ _ => And.left)

theorem writeBytes_calls (out : Bytes) (hs : s.InAttempt P T k) (hp : s.phase = .payload) :
    (writeBytes out s).CallsAre s (BodyCalls P T k (2 * out.length)) := by
  induction out generalizing s with
  | nil => exact Proc.callsAre_done (.nil [])
  | cons b out ih =>
    obtain ⟨rfl, rfl, rfl⟩ := id hs
    rw [List.length_cons, Nat.mul_succ, Nat.add_comm]
    have htrip := ackedTrip_calls hs ⟨b, .inr ⟨hp, rfl⟩⟩
      fun t l hmade hphase => ih (hmade.inAttempt hs) (hphase.trans hp)
    exact htrip.mono fun _ _ => And.left

theorem writePhase_calls (out : Bytes) (hs : s.InAttempt P T k) :
    (writePhase out s).CallsAre s (BodyCalls P T k (2 * out.length)) := by
  have hmade : Made s (s.setPhase .payload) [] := ⟨_, _, progress_setPhase s (by decide)⟩
  exact Proc.CallsAre.after hmade (writeBytes_calls out (hmade.inAttempt hs) rfl)

/-- At most so many round trips has a read of `n` bytes: its chunks (R165), and no more than its bytes where
`CHUNK_SIZE` is not positive. -/
def readTrips (chunkSize : Int) (n : Nat) : Nat := if 1 ≤ chunkSize then chunkCount chunkSize.toNat n else n

theorem chunkCount_of_lt {c n : Nat} (hc : 1 ≤ c) (hn : c < n) : chunkCount c n = chunkCount c (n - c) + 1 := by
  rw [chunkCount, chunkCount, ← Nat.add_div_right _ hc]
  congr 1
  omega

/-- The chunk after `nextChunk` leaves one round trip less to make. -/
theorem chunkCount_nextChunk (hc : 1 ≤ s.chunkSize) (hrem : s.txn.rem ≠ 0) :
    chunkCount s.chunkSize.toNat (s.txn.rem - (nextChunk s).1) + 1 = chunkCount s.chunkSize.toNat s.txn.rem := by
  unfold nextChunk
  split
  · exact (chunkCount_of_lt (by omega) (by omega)).symm
  · have hone : chunkCount s.chunkSize.toNat s.txn.rem = 1 := Nat.div_eq_of_lt_le (by omega) (by omega)
    have hzero : chunkCount s.chunkSize.toNat 0 = 0 := Nat.div_eq_of_lt (by omega)
    rw [hone, Nat.sub_self, hzero]

/-- A loop of at most `fuel` chunks has at most `trips` round trips to make in `s`. -/
def State.TripsLeft (fuel trips : Nat) (s : State) : Prop :=
  fuel ≤ trips ∨ (1 ≤ s.chunkSize ∧ chunkCount s.chunkSize.toNat s.txn.rem ≤ trips)

theorem State.TripsLeft.afterChunk {fuel trips : Nat} (h : s.TripsLeft (fuel + 1) trips) (hrem : s.txn.rem ≠ 0) :
    ∃ rest, trips = rest + 1 ∧ ∀ t : State, t.chunkSize = s.chunkSize →
      t.txn.rem = s.txn.rem - (nextChunk s).1 → t.TripsLeft fuel rest := by
  rcases h with hfuel | ⟨hc, hle⟩
  · obtain ⟨rest, rfl⟩ := Nat.exists_eq_add_of_le' (Nat.le_of_add_left_le hfuel)
    exact ⟨rest, rfl, fun t _ _ => .inl (Nat.le_of_succ_le_succ hfuel)⟩
  · rw [← chunkCount_nextChunk hc hrem] at hle
    obtain ⟨rest, rfl⟩ := Nat.exists_eq_add_of_le' (Nat.le_of_add_left_le hle)
    refine ⟨rest, rfl, fun t hsize hleft => .inr ⟨hsize ▸ hc, ?_⟩⟩
    rw [hsize, hleft]
    exact Nat.le_of_succ_le_succ hle

theorem readChunks_calls {fuel trips : Nat} (hs : s.InAttempt P T k) (hp : s.phase = .payload)
    (htrips : s.TripsLeft fuel trips) : (readChunks fuel s).CallsAre s (BodyCalls P T k (2 * trips)) := by
  induction fuel generalizing s trips with
  | zero => exact Proc.callsAre_done (.nil _)
  | succ fuel ih =>
    unfold readChunks
    split
    · exact Proc.callsAre_done (.nil _)
    · next hrem =>
      obtain ⟨rest, rfl, hleft⟩ := htrips.afterChunk hrem
      obtain ⟨hnext, hnextPhase⟩ := progress_nextChunk s
      have hmade : Made s (nextChunk s).2.2 [] := ⟨_, _, hnext⟩
      have hpayload := hnextPhase.trans hp
      rw [Nat.mul_succ, Nat.add_comm, ← hnext.par]
      refine Proc.CallsAre.after hmade (Proc.CallsAre.mono (roundTrip_bodyCalls (bound := 2 * rest)
        (hmade.inAttempt hs) (.inr hpayload) fun r t hr htrip htxn hphase => ?_) fun _ _ => And.left)
      rw [nextChunk_txn] at htxn
      split
      · refine Proc.callsAre_done (BodyCalls.mono (bound := 2) ?_ (Nat.le_add_right _ _))
        exact List.append_nil _ ▸ bodyCalls_trip (.inr hpayload) (fun _ => rfl) nofun
      · next hfull =>
        have htake : Made t (takeChunk (nextChunk s).1 r t) [] := ⟨_, _, progress_readRegs t _ _⟩
        have hall := (hmade.trans htrip).trans htake
        obtain ⟨-, -, -, hsize, -⟩ := hall.frame.config
        have hremaining : (takeChunk (nextChunk s).1 r t).txn.rem = s.txn.rem - (nextChunk s).1 := by
          rw [takeChunk, State.setTxn_txn, htxn]
        have hloop := ih (hall.inAttempt hs) (hphase.trans hpayload) (hleft _ hsize hremaining)
        refine Proc.CallsAre.after htake (hloop.mono fun _ _ => BodyCalls.append (d := []) ?_)
        exact bodyCalls_trip (.inr hpayload) (fun hshort => absurd hshort hfull) nofun

theorem readPhase_calls (n : Nat) (hs : s.InAttempt P T k) :
    (readPhase n s).CallsAre s (BodyCalls P T k (2 * readTrips s.chunkSize n)) := by
  have hmade : Made s ((s.setPhase .payload).setTxn { s.txn with rem := n, rbuf := [] }) [] :=
    ⟨_, _, (progress_setPhase s (by decide)).trans (progress_readRegs (s.setPhase .payload) n [])⟩
  refine Proc.CallsAre.after hmade (readChunks_calls (hmade.inAttempt hs) rfl ?_)
  unfold readTrips
  split
  · next hc => exact .inr ⟨hc, le_rfl⟩
  · exact .inl le_rfl

/-- At most so many round trips has the body of an attempt after its first prolog. -/
def tripsAfterFirstProlog (op : BusOp) (s : State) : Nat :=
  match op with
  | .read => readTrips s.chunkSize s.txn.rlen
  | .write => s.txn.out.length
  | .exchange => s.txn.out.length + (1 + readTrips s.chunkSize s.txn.rlen)
  | .poll => 0

theorem BusFrame.readTrips {s t : State} (h : BusFrame s t) :
    readTrips t.chunkSize t.txn.rlen = readTrips s.chunkSize s.txn.rlen := by
  obtain ⟨-, -, -, hsize, -⟩ := h.config
  rw [hsize, h.rlen]

theorem BusFrame.tripsAfterFirstProlog {s t : State} (h : BusFrame s t) (op : BusOp) :
    tripsAfterFirstProlog op t = tripsAfterFirstProlog op s := by
  cases op with
  | read => exact h.readTrips
  | write => exact congrArg List.length h.out
  | exchange => exact congrArg₂ (fun m n => m + (1 + n)) (congrArg List.length h.out) h.readTrips
  | poll => rfl

theorem afterFirstProlog_calls (op : BusOp) (hs : s.InAttempt P T k) :
    (afterFirstProlog op s).CallsAre s (BodyCalls P T k (2 * tripsAfterFirstProlog op s)) := by
  cases op with
  | read => exact readPhase_calls _ hs
  | write => exact writePhase_calls _ hs
  | exchange =>
    rw [tripsAfterFirstProlog, Nat.mul_add, Nat.mul_add]
    refine ifAcked_calls (writePhase_calls _ hs) fun t l ht => ?_
    have hst := ht.inAttempt hs
    refine ifAcked_calls (prolog_calls hst _) fun u l' hu => ?_
    exact (ht.trans hu).frame.readTrips ▸ readPhase_calls _ (hu.inAttempt hst)
  | poll => exact Proc.callsAre_done (.nil [])

/-- The body of an attempt begins with its first prolog. -/
theorem body_calls (hs : s.InAttempt P T k) :
    (body s).CallsAre s fun o l => BodyCalls P T k (2 * (1 + tripsAfterFirstProlog s.txn.op s)) o l ∧
      StartsWith .prolog (.sendCommands (T.prologCmd (firstAddressByte s))) l := by
  have hmade : Made s (s.setPhase .prolog) [] := ⟨_, _, progress_setPhase s (by decide)⟩
  obtain ⟨rfl, rfl, rfl⟩ := id hs
  rw [body_eq, prolog, ifAcked_roundTrip, Nat.mul_add]
  refine Proc.CallsAre.after hmade (ackedTrip_calls (hmade.inAttempt hs) ⟨_, .inl ⟨rfl, rfl⟩⟩ fun t l ht _ => ?_)
  have hst := hmade.trans ht
  exact hst.frame.tripsAfterFirstProlog _ ▸ afterFirstProlog_calls s.txn.op (hst.inAttempt hs)

end Body

/-! #### The epilog and the attempt (R162, R169) -/

/-- What the epilog of attempt `k` called: its one `STOP` and perhaps the receive that follows. -/
structure EpilogCalls (T : Templates) (k : Nat) (o : Option PhaseOutcome) (l : List CallRecord) : Prop where
  attempt : ∀ r ∈ l, r.attempt = k
  phase : ∀ r ∈ l, r.phase = .epilog
  length : l.length ≤ 2
  stops : l.countP (fun r => decide (r.stopSent T)) = 1
  failure : ∀ r ∈ l, r.transportFailure → o = some .transport

theorem epilog_calls {T : Templates} {k : Nat} {s : State} (htpl : s.tpl = T) (hattempt : s.attempt = k) :
    (epilog s).CallsAre s (EpilogCalls T k) := by
  subst htpl hattempt
  refine Proc.CallsAre.after (l := []) ⟨_, _, progress_setPhase s (p := .epilog) (by decide)⟩
    (roundTrip_calls ?_ ?_ ?_ fun r t _ _ _ _ => Proc.callsAre_done ?_)
  · exact ⟨by simp, by simp, by simp, by simp, by simp⟩
  · exact ⟨by simp, by simp, by simp, by simp, by simp [CallRecord.transportFailure]⟩
  · exact ⟨by simp, by simp, by simp, by simp, by simp [CallRecord.transportFailure]⟩
  · rw [List.append_nil]
    exact ⟨by simp [roundTripCalls], by simp [roundTripCalls], by simp [roundTripCalls], by simp [roundTripCalls],
      by simp [roundTripCalls, CallRecord.transportFailure]⟩

/-- What all attempts of one operation have in common: the parameters, the templates, the address byte of the first
prolog and a bound on the round trips of the body. -/
structure Plan where
  par : Params
  tpl : Templates
  first : Byte
  trips : Nat

def State.plan (s : State) : Plan := ⟨s.par, s.tpl, firstAddressByte s, 1 + tripsAfterFirstProlog s.txn.op s⟩

theorem BusFrame.plan {s t : State} (h : BusFrame s t) : t.plan = s.plan := by
  obtain ⟨-, -, htpl, -, -, -, -, hpar⟩ := h.config
  rw [State.plan, State.plan, htpl, hpar, h.firstAddressByte, h.op, h.tripsAfterFirstProlog]

/-- The calls of a whole body in attempt `k`. -/
def Plan.Body (q : Plan) (k : Nat) (o : Option PhaseOutcome) (l : List CallRecord) : Prop :=
  BodyCalls q.par q.tpl k (2 * q.trips) o l ∧ StartsWith .prolog (.sendCommands (q.tpl.prologCmd q.first)) l

/-- The calls of attempt `k`: its body's, and, if that came back, its epilog's. -/
inductive Plan.Attempt (q : Plan) (k : Nat) : Option PhaseOutcome → List CallRecord → Prop where
  | ended {b e : PhaseOutcome} {l l' : List CallRecord} (hb : q.Body k (some b) l)
      (he : EpilogCalls q.tpl k (some e) l') : Plan.Attempt q k (some (attemptOutcome b e)) (l ++ l')
  | stuckInBody {l : List CallRecord} (hb : q.Body k none l) : Plan.Attempt q k none l
  | stuckInEpilog {b : PhaseOutcome} {l l' : List CallRecord} (hb : q.Body k (some b) l)
      (he : EpilogCalls q.tpl k none l') : Plan.Attempt q k none (l ++ l')

theorem made_settleRead (o : PhaseOutcome) (s : State) : Made s (settleRead o s) [] := by
  cases o with
  | acked d => exact ⟨_, _, .refl s⟩
  | nack => exact ⟨_, _, progress_readRegs s s.txn.rem []⟩
  | transport => exact ⟨_, _, progress_readRegs s s.txn.rem []⟩

theorem attemptOnce_calls (s : State) : (attemptOnce s).CallsAre s (s.plan.Attempt s.attempt) := by
  have hs : s.InAttempt s.par s.tpl s.attempt := ⟨rfl, rfl, rfl⟩
  refine (body_calls hs).andThen (fun l hb => .stuckInBody hb) fun b t l ht hb => ?_
  obtain ⟨-, htpl, hattempt⟩ := ht.inAttempt hs
  refine (epilog_calls htpl hattempt).andThen (fun l' he => .stuckInEpilog hb he) fun e u l' hu he => ?_
  refine Proc.CallsAre.after (made_settleRead (attemptOutcome b e) u) (Proc.callsAre_done ?_)
  rw [List.append_nil, List.append_nil]
  exact .ended hb he

/-! #### The attempts (R170) -/

/-- The calls `l` of the attempts `k` to `n`: all but attempt `n` were refused, and that came to `o`. -/
inductive Plan.Attempts (q : Plan) (n : Nat) (o : Option PhaseOutcome) : Nat → List CallRecord → Prop where
  | last {l : List CallRecord} (h : q.Attempt n o l) : Plan.Attempts q n o n l
  | retried {k : Nat} {l l' : List CallRecord} (h : q.Attempt k (some .nack) l) (h' : Plan.Attempts q n o (k + 1) l') :
      Plan.Attempts q n o k (l ++ l')

/-- From `s` to `t` the attempts `s.attempt` to `t.attempt` were made, of `budget` at most. -/
def Attempted (budget : Nat) (s t : State) (o : Option PhaseOutcome) : Prop :=
  t.attempt ≤ budget ∧ ∃ l, t.calls = s.calls ++ l ∧ s.plan.Attempts t.attempt o s.attempt l

section Attempted

variable {budget : Nat} {s t u : State} {o : Option PhaseOutcome} {l : List CallRecord}

theorem attempted_last (hle : s.attempt ≤ budget) (hattempt : t.attempt = s.attempt) (hcalls : t.calls = s.calls ++ l)
    (hl : s.plan.Attempt s.attempt o l) : Attempted budget s t o := by
  refine ⟨hattempt ▸ hle, l, hcalls, ?_⟩
  rw [hattempt]
  exact .last hl

theorem Attempted.retried (h : Attempted budget (t.setAttempt (t.attempt + 1)) u o) (hmade : Made s t l)
    (hl : s.plan.Attempt s.attempt (some .nack) l) : Attempted budget s u o := by
  obtain ⟨hle, l', hcalls, hl'⟩ := h
  have hframe : BusFrame s (t.setAttempt (t.attempt + 1)) := busFrame_closed.trans hmade.frame (.setAttempt t _)
  rw [hframe.plan, State.setAttempt_attempt, hmade.attempt] at hl'
  refine ⟨hle, l ++ l', ?_, .retried hl hl'⟩
  rw [hcalls, State.setAttempt_calls, hmade.calls, List.append_assoc]

end Attempted

theorem attemptsFuel_calls {budget fuel : Nat} {s : State} (hle : s.attempt ≤ budget)
    (hfuel : s.attempt + fuel = budget + 1) :
    (attemptsFuel budget fuel s).Ensures (fun o t => BusFrame s t ∧ Attempted budget s t (some o))
      fun t => t.pending ≠ none ∧ Attempted budget s t none := by
  induction fuel generalizing s with
  | zero => omega
  | succ fuel ih =>
    refine Proc.Ensures.andThen (Proc.Ensures.mono (attemptOnce_calls s) (fun _ _ => id) fun t ⟨l, hhalted, hl⟩ =>
      ⟨hhalted.pending, attempted_last hle hhalted.attempt hhalted.calls hl⟩) fun o t ⟨l, hmade, hl⟩ => ?_
    split
    · next hnack =>
      obtain ⟨rfl, hlt⟩ := hnack
      have hattempt := hmade.attempt
      have hrest := ih (s := t.setAttempt (t.attempt + 1)) hlt (by rw [State.setAttempt_attempt]; omega)
      have hframe : BusFrame s (t.setAttempt (t.attempt + 1)) := busFrame_closed.trans hmade.frame (.setAttempt t _)
      exact hrest.mono (fun _ _ ⟨hu, h⟩ => ⟨busFrame_closed.trans hframe hu, h.retried hmade hl⟩)
        fun _ ⟨hu, h⟩ => ⟨hu, h.retried hmade hl⟩
    · exact ⟨hmade.frame, attempted_last hle hmade.attempt hmade.calls hl⟩

theorem attempts_calls {budget : Nat} (hpos : 1 ≤ budget) (s : State) :
    (attempts budget s).Ensures (fun o t => BusFrame s t ∧ Attempted budget (s.setAttempt 1) t (some o))
      fun t => t.pending ≠ none ∧ Attempted budget (s.setAttempt 1) t none :=
  (attemptsFuel_calls (s := s.setAttempt 1) hpos (Nat.add_comm 1 budget)).mono
    (fun _ _ ⟨ht, h⟩ => ⟨busFrame_closed.trans (.setAttempt s 1) ht, h⟩) fun _ => id

/-! #### The operation -/

/-- From `s` to `t` an operation made attempts after the plan `q`, `budget` at most, and came to `o`. -/
structure Operated (q : Plan) (budget : Nat) (s t : State) (o : Option PhaseOutcome) : Prop where
  attempt : t.attempt ≤ budget
  calls : ∃ l, t.calls = s.calls ++ l ∧ q.Attempts t.attempt o 1 l
  returned : t.pending = none → o ≠ none
  transport : o = some .transport → t.responses = s.responses ++ [.err .transportError]

theorem Operated.attempts {q : Plan} {budget : Nat} {s t : State} {o : Option PhaseOutcome} {l : List CallRecord}
    (h : Operated q budget s t o) (hcalls : t.calls = s.calls ++ l) : q.Attempts t.attempt o 1 l := by
  obtain ⟨l', hl', hattempts⟩ := h.calls
  obtain rfl : l = l' := List.append_cancel_left (hcalls.symm.trans hl')
  exact hattempts

theorem operated_of_attempts {budget : Nat} (hpos : 1 ≤ budget) {s t : State} {x : Transaction}
    {f : PhaseOutcome → Result} (hf : f .transport = .err .transportError)
    (h : ((attempts budget (s.setTxn x)).andThen fun o u => .done (f o) u).run.outcome = .next t) :
    ∃ o, Operated (s.setTxn x).plan budget s t o := by
  have hcalls := attempts_calls hpos (s.setTxn x)
  cases hr : (attempts budget (s.setTxn x)).run with
  | done o u =>
    obtain ⟨hframe, hattempt, hl⟩ := (Proc.ensures_of_run_done hr).1 hcalls
    rw [Proc.run_andThen_of_done hr, Proc.run_done, Run.outcome_done, Host.Outcome.next.injEq] at h
    subst h
    refine ⟨some o, hattempt, hl, nofun, ?_⟩
    rintro ⟨⟩
    rw [hf, State.respond_responses, State.setPhase_responses, hframe.responses, State.setTxn_responses]
  | stuck u =>
    obtain ⟨hpending, hattempt, hl⟩ := (Proc.ensures_of_run_stuck hr).1 hcalls
    rw [Proc.run_andThen_of_stuck hr, Run.outcome_stuck, Host.Outcome.next.injEq] at h
    subst h
    exact ⟨none, hattempt, hl, fun hnone => absurd hnone hpending, nofun⟩

theorem run_operated {s t : State} {x : Transaction} (h : (run (s.setTxn x)).run.outcome = .next t) :
    ∃ o, Operated (s.setTxn x).plan Config.attemptsMax s t o := operated_of_attempts (by decide) rfl h

theorem runPoll_operated {s t : State} {x : Transaction} (h : (runPoll (s.setTxn x)).run.outcome = .next t) :
    ∃ o, Operated (s.setTxn x).plan Config.pollAttempts s t o := operated_of_attempts le_rfl rfl h

theorem calls_of_rejected {s t : State} {k : ErrKind} (h : (Proc.done (.err k) s).run.outcome = .next t) :
    t.calls = s.calls := by
  rw [Proc.run_done, Run.outcome_done, Host.Outcome.next.injEq] at h
  rw [← h, State.respond_calls, State.setPhase_calls]

/-- A bus operation that called the Command Engine made attempts. -/
theorem busOp_operated {i : Instr} {s t : State} {l : List CallRecord} (hi : i.isBusOp = true)
    (h : exec i s = .next t) (hcalls : t.calls = s.calls ++ l) (hne : l ≠ []) :
    ∃ q budget o, q.par = s.par ∧ q.tpl = s.tpl ∧ Operated q budget s t o ∧ q.Attempts t.attempt o 1 l := by
  obtain ⟨o, ho⟩ : ∃ o, operationOf i s = some o := by
    cases i <;> cases hi <;> exact ⟨_, rfl⟩
  obtain ⟨p, hp, hout⟩ := exec_next_of_runs ho (operationOf_runs_bus hi ho) h
  cases hp with
  | rejected k => exact absurd (List.append_right_eq_self.1 (hcalls.symm.trans (calls_of_rejected hout))) hne
  | transaction x =>
    obtain ⟨o, ho⟩ := run_operated hout
    exact ⟨_, _, o, rfl, rfl, ho, ho.attempts hcalls⟩
  | poll x =>
    obtain ⟨o, ho⟩ := runPoll_operated hout
    exact ⟨_, _, o, rfl, rfl, ho, ho.attempts hcalls⟩

/-! ### The phases of the calls (R160) -/

/-- Phases that begin with `PROLOG`, follow the transitions, and end with `EPILOG` where the last call returned. -/
def PhasesOk (o : Option PhaseOutcome) (l : List Phase) : Prop :=
  List.IsChain phaseFollows l ∧ l.head? = some .prolog ∧ (o ≠ none → l.getLast? = some .epilog)

section Phases

variable {q : Plan} {k n : Nat} {o : Option PhaseOutcome} {l l' : List CallRecord}

theorem StartsWith.head?_phase {p : Phase} {c : Call} (h : StartsWith p c l) :
    (l.map CallRecord.phase).head? = some p := by
  obtain ⟨r, hr, rfl, -⟩ := h
  rw [List.head?_map, hr, Option.map_some]

/-- `PROLOG` and `PAYLOAD` follow one another in any order. -/
theorem BodyCalls.chain {P : Params} {T : Templates} {bound : Nat} (h : BodyCalls P T k bound o l) :
    List.IsChain phaseFollows (l.map CallRecord.phase) := by
  refine ((List.isChain_map _).2 (List.pairwise_of_forall_mem_list fun r hr r' hr' => ?_).isChain)
  rcases h.phase r hr with hp | hp <;> rcases h.phase r' hr' with hp' | hp' <;> rw [hp, hp'] <;> decide

theorem EpilogCalls.phases {T : Templates} (h : EpilogCalls T k o l) :
    List.IsChain phaseFollows (l.map CallRecord.phase) ∧ (l.map CallRecord.phase).head? = some .epilog ∧
      (l.map CallRecord.phase).getLast? = some .epilog := by
  obtain ⟨m, hm⟩ : ∃ m, l.length = m + 1 := by
    refine Nat.exists_eq_succ_of_ne_zero fun hzero => ?_
    have hstops := h.stops
    rw [List.length_eq_zero_iff.1 hzero] at hstops
    cases hstops
  have hreplicate : l.map CallRecord.phase = List.replicate (m + 1) .epilog :=
    List.eq_replicate_iff.2 ⟨by rw [List.length_map, hm], List.forall_mem_map.2 h.phase⟩
  rw [hreplicate, List.getLast?_replicate]
  exact ⟨(List.pairwise_replicate.2 (.inr (.inl rfl))).isChain, rfl, rfl⟩

theorem PhasesOk.append {x y : List Phase} (hx : List.IsChain phaseFollows x) (hhead : x.head? = some .prolog)
    (hy : List.IsChain phaseFollows y) (hjoin : ∀ p ∈ x.getLast?, ∀ p' ∈ y.head?, phaseFollows p p')
    (hlast : o ≠ none → y.getLast? = some .epilog) : PhasesOk o (x ++ y) :=
  ⟨List.isChain_append.2 ⟨hx, hy, hjoin⟩, by rw [List.head?_append, hhead, Option.some_or],
    fun ho => by rw [List.getLast?_append, hlast ho, Option.some_or]⟩

theorem phasesOk_body_epilog {b : Option PhaseOutcome} (hb : q.Body k b l) (he : EpilogCalls q.tpl k o l') :
    PhasesOk o ((l ++ l').map CallRecord.phase) := by
  obtain ⟨hbody, hstart⟩ := hb
  obtain ⟨hchain, hhead, hlast⟩ := he.phases
  rw [List.map_append]
  refine PhasesOk.append hbody.chain hstart.head?_phase hchain (fun p hp p' hp' => ?_) fun _ => hlast
  obtain ⟨r, hr, rfl⟩ := List.mem_map.1 (List.mem_of_mem_getLast? hp)
  obtain rfl : .epilog = p' := Option.some.inj (hhead.symm.trans hp')
  rcases hbody.phase r hr with hr | hr <;> rw [hr] <;> decide

theorem Plan.Attempt.phasesOk (h : q.Attempt k o l) : PhasesOk o (l.map CallRecord.phase) := by
  cases h with
  | ended hb he =>
    obtain ⟨hchain, hhead, hlast⟩ := phasesOk_body_epilog hb he
    exact ⟨hchain, hhead, fun _ => hlast nofun⟩
  | stuckInBody hb => exact ⟨hb.1.chain, hb.2.head?_phase, fun ho => absurd rfl ho⟩
  | stuckInEpilog hb he => exact phasesOk_body_epilog hb he

/-- An attempt that is retried ends with `EPILOG`, and the next begins with `PROLOG`. -/
theorem Plan.Attempts.phasesOk (h : q.Attempts n o k l) : PhasesOk o (l.map CallRecord.phase) := by
  induction h with
  | last h => exact h.phasesOk
  | retried h _ ih =>
    obtain ⟨hchain, hhead, hlast⟩ := h.phasesOk
    obtain ⟨hchain', hhead', hlast'⟩ := ih
    rw [List.map_append]
    refine PhasesOk.append hchain hhead hchain' ?_ hlast'
    rw [hlast nofun, hhead']
    rintro _ ⟨⟩ _ ⟨⟩
    decide

theorem PhasesOk.chain_from_idle {x : List Phase} (h : PhasesOk o x) : List.IsChain phaseFollows (.idle :: x) := by
  obtain ⟨hchain, hhead, -⟩ := h
  rw [List.isChain_cons, hhead]
  refine ⟨?_, hchain⟩
  rintro _ ⟨⟩
  decide

theorem PhasesOk.chain_to_idle {x : List Phase} (h : PhasesOk o x) (ho : o ≠ none) :
    List.IsChain phaseFollows (.idle :: x ++ [.idle]) := by
  have hchain := h.chain_from_idle
  obtain ⟨-, hhead, hlast⟩ := h
  obtain ⟨p, x, rfl⟩ : ∃ p y, x = p :: y := by
    cases x with
    | nil => cases hhead
    | cons p x => exact ⟨p, x, rfl⟩
  refine List.isChain_append.2 ⟨hchain, .singleton _, ?_⟩
  rw [List.getLast?_cons_cons, hlast ho]
  rintro _ ⟨⟩ _ ⟨⟩
  decide

end Phases

/-- Settles O49: a body's calls are in `PROLOG` and `PAYLOAD` and begin with `PROLOG`, an epilog's are in `EPILOG`, and
both have at least one. -/
theorem phasesFollowTheTransitions : Obligations.PhasesFollowTheTransitions := by
  intro i s t l hi h hcalls
  by_cases hne : l = []
  · subst hne
    split <;> decide
  obtain ⟨q, budget, o, -, -, hop, hattempts⟩ := busOp_operated hi h hcalls hne
  split
  · next hpending => exact hattempts.phasesOk.chain_to_idle (hop.returned hpending)
  · rw [List.append_nil]
    exact hattempts.phasesOk.chain_from_idle

/-! ### The calls of each attempt (R169 to R171) -/

section Attempts

variable {q : Plan} {j k n : Nat} {o : Option PhaseOutcome} {l : List CallRecord}

theorem Plan.Attempt.attempt (h : q.Attempt k o l) : ∀ r ∈ l, r.attempt = k := by
  cases h with
  | ended hb he => exact List.forall_mem_append.2 ⟨hb.1.attempt, he.attempt⟩
  | stuckInBody hb => exact hb.1.attempt
  | stuckInEpilog hb he => exact List.forall_mem_append.2 ⟨hb.1.attempt, he.attempt⟩

theorem Plan.Attempt.length_le (h : q.Attempt k o l) : l.length ≤ 2 * q.trips + 2 := by
  cases h with
  | ended hb he =>
    rw [List.length_append]
    exact Nat.add_le_add hb.1.length he.length
  | stuckInBody hb => exact hb.1.length.trans (Nat.le_add_right _ _)
  | stuckInEpilog hb he =>
    rw [List.length_append]
    exact Nat.add_le_add hb.1.length he.length

theorem Plan.Attempt.startsWith (h : q.Attempt k o l) :
    StartsWith .prolog (.sendCommands (q.tpl.prologCmd q.first)) l := by
  have append {b : Option PhaseOutcome} {l l' : List CallRecord} (hb : q.Body k b l) :
      StartsWith .prolog (.sendCommands (q.tpl.prologCmd q.first)) (l ++ l') := by
    obtain ⟨-, r, hr, hcall⟩ := hb
    exact ⟨r, by rw [List.head?_append, hr, Option.some_or], hcall⟩
  cases h with
  | ended hb _ => exact append hb
  | stuckInBody hb => exact hb.2
  | stuckInEpilog hb _ => exact append hb

theorem Plan.Attempt.stops {x : PhaseOutcome} (h : q.Attempt k (some x) l) :
    l.countP (fun r => decide (r.stopSent q.tpl)) = 1 := by
  cases h with
  | ended hb he =>
    rw [List.countP_append, he.stops, List.countP_eq_zero.2 fun r hr hstop => ?_]
    obtain ⟨hepilog, -⟩ := of_decide_eq_true hstop
    rcases hb.1.phase r hr with hp | hp <;> rw [hp] at hepilog <;> cases hepilog

theorem Plan.Attempt.getLast?_epilog {x : PhaseOutcome} (h : q.Attempt k (some x) l) :
    ∃ r, l.getLast? = some r ∧ r.phase = .epilog ∧ r.attempt = k := by
  obtain ⟨-, -, hlast⟩ := h.phasesOk
  have hlast := hlast nofun
  rw [List.getLast?_map] at hlast
  obtain ⟨r, hr, hphase⟩ := Option.map_eq_some_iff.1 hlast
  exact ⟨r, hr, hphase, h.attempt r (List.mem_of_mem_getLast? hr)⟩

/-- A transport failure decides the attempt (R169, R262). -/
theorem Plan.Attempt.transport (h : q.Attempt k o l) (ho : o ≠ none) {r : CallRecord} (hr : r ∈ l)
    (hfailed : r.transportFailure) : o = some .transport := by
  cases h with
  | ended hb he =>
    rw [attemptOutcome, if_pos]
    rcases List.mem_append.1 hr with hr | hr
    · exact .inl (Option.some.inj (hb.1.failure r hr hfailed))
    · exact .inr (Option.some.inj (he.failure r hr hfailed))
  | stuckInBody => exact absurd rfl ho
  | stuckInEpilog => exact absurd rfl ho

theorem attemptOutcome_eq_nack {b e : PhaseOutcome} (h : attemptOutcome b e = .nack) : b = .nack := by
  unfold attemptOutcome at h
  split at h
  · cases h
  · exact h

/-- A refused attempt ended its body with a refused byte (R161, R163). -/
theorem Plan.Attempt.refused (h : q.Attempt k (some .nack) l) :
    ∃ m r r', l.filter (fun c => c.phase ≠ .epilog) = m ++ [r, r'] ∧ RefusedByte q.par q.tpl r r' := by
  generalize ho : some PhaseOutcome.nack = o at h
  cases h with
  | @ended b e l l' hb he =>
    obtain rfl := attemptOutcome_eq_nack (Option.some.inj ho).symm
    obtain ⟨m, r, r', hl, hbyte⟩ := hb.1.refused rfl
    have hbody : l.filter (fun c => c.phase ≠ .epilog) = l := List.filter_eq_self.2 fun c hc => by
      rcases hb.1.phase c hc with hp | hp <;> rw [hp] <;> rfl
    have hepilog : l'.filter (fun c => c.phase ≠ .epilog) = [] := List.filter_eq_nil_iff.2 fun c hc => by
      simp [he.phase c hc]
    exact ⟨m, r, r', by rw [List.filter_append, hbody, hepilog, List.append_nil, hl], hbyte⟩
  | stuckInBody => cases ho
  | stuckInEpilog => cases ho

theorem Plan.Attempts.le (h : q.Attempts n o k l) : k ≤ n := by
  induction h with
  | last => exact le_rfl
  | retried _ _ ih => exact Nat.le_of_succ_le ih

theorem Plan.Attempts.attempt (h : q.Attempts n o k l) : ∀ r ∈ l, k ≤ r.attempt ∧ r.attempt ≤ n := by
  induction h with
  | last h => exact fun r hr => ⟨(h.attempt r hr).ge, (h.attempt r hr).le⟩
  | retried h h' ih =>
    refine List.forall_mem_append.2 ⟨fun r hr => ?_, fun r hr => ?_⟩
    · rw [h.attempt r hr]
      exact ⟨le_rfl, Nat.le_of_succ_le h'.le⟩
    · exact (ih r hr).imp_left Nat.le_of_succ_le

/-- The calls numbered `j` are those of attempt `j`; it was refused unless it was the last. -/
theorem Plan.Attempts.filter (h : q.Attempts n o k l) (hk : k ≤ j) (hj : j ≤ n) :
    ∃ o', q.Attempt j o' (l.filter fun r => r.attempt = j) ∧ (j < n → o' = some .nack) ∧ (j = n → o' = o) := by
  induction h with
  | last h =>
    obtain rfl := Nat.le_antisymm hj hk
    refine ⟨o, ?_, fun hlt => absurd hlt (lt_irrefl j), fun _ => rfl⟩
    rwa [List.filter_eq_self.2 fun r hr => decide_eq_true (h.attempt r hr)]
  | @retried k l l' h h' ih =>
    rw [List.filter_append]
    rcases hk.eq_or_lt with rfl | hlt
    · refine ⟨some .nack, ?_, fun _ => rfl, fun hn => absurd h'.le (by omega)⟩
      have hself : l.filter (fun r => r.attempt = k) = l :=
        List.filter_eq_self.2 fun r hr => decide_eq_true (h.attempt r hr)
      have hlater : l'.filter (fun r => r.attempt = k) = [] := List.filter_eq_nil_iff.2 fun r hr => by
        have := (h'.attempt r hr).1
        simp only [decide_eq_true_eq]
        omega
      rwa [hself, hlater, List.append_nil]
    · have hother : l.filter (fun r => r.attempt = j) = [] := List.filter_eq_nil_iff.2 fun r hr => by
        simp only [h.attempt r hr, decide_eq_true_eq]
        omega
      rw [hother, List.nil_append]
      exact ih hlt

/-- Where every attempt came back, the calls numbered `j` are those of an attempt that came back. -/
theorem Plan.Attempts.filter_ended (h : q.Attempts n o k l) (ho : o ≠ none) (hk : k ≤ j) (hj : j ≤ n) :
    ∃ x, q.Attempt j (some x) (l.filter fun r => r.attempt = j) := by
  obtain ⟨o', hattempt, hrefused, hlast⟩ := h.filter hk hj
  rcases hj.lt_or_eq with hlt | heq
  · exact ⟨.nack, hrefused hlt ▸ hattempt⟩
  · obtain ⟨x, rfl⟩ := Option.ne_none_iff_exists'.1 ho
    exact ⟨x, hlast heq ▸ hattempt⟩

theorem Plan.Attempts.stops (h : q.Attempts n o k l) (ho : o ≠ none) :
    l.countP (fun r => decide (r.stopSent q.tpl)) + k = n + 1 := by
  induction h with
  | last h =>
    obtain ⟨x, rfl⟩ := Option.ne_none_iff_exists'.1 ho
    rw [h.stops, Nat.add_comm]
  | retried h _ ih =>
    rw [List.countP_append, h.stops]
    omega

theorem Plan.Attempts.getLast?_epilog (h : q.Attempts n o k l) (ho : o ≠ none) :
    ∃ r, l.getLast? = some r ∧ r.phase = .epilog ∧ r.attempt = n := by
  induction h with
  | last h =>
    obtain ⟨x, rfl⟩ := Option.ne_none_iff_exists'.1 ho
    exact h.getLast?_epilog
  | retried _ _ ih =>
    obtain ⟨r, hr, hepilog⟩ := ih
    exact ⟨r, by rw [List.getLast?_append, hr, Option.some_or], hepilog⟩

theorem Plan.Attempts.length_le (h : q.Attempts n o k l) : l.length ≤ (n + 1 - k) * (2 * q.trips + 2) := by
  induction h with
  | last h =>
    rw [Nat.add_sub_cancel_left, Nat.one_mul]
    exact h.length_le
  | @retried k l l' h h' ih =>
    have hle := h'.le
    rw [List.length_append, show n + 1 - k = (n + 1 - (k + 1)) + 1 by omega, Nat.succ_mul, Nat.add_comm]
    exact Nat.add_le_add ih h.length_le

/-- A transport failure is in the last attempt, and what that came to (R171). -/
theorem Plan.Attempts.transport (h : q.Attempts n o k l) (ho : o ≠ none) {r : CallRecord} (hr : r ∈ l)
    (hfailed : r.transportFailure) : o = some .transport ∧ r.attempt = n := by
  obtain ⟨hk, hn⟩ := h.attempt r hr
  have hmem : r ∈ l.filter fun c => c.attempt = r.attempt := List.mem_filter.2 ⟨hr, decide_eq_true rfl⟩
  obtain ⟨o', hattempt, hrefused, hlast⟩ := h.filter hk hn
  rcases hn.lt_or_eq with hlt | heq
  · obtain rfl := hrefused hlt
    cases hattempt.transport nofun hmem hfailed
  · obtain rfl := hlast heq
    exact ⟨hattempt.transport ho hmem hfailed, heq⟩

/-- An attempt that another followed was refused (R171). -/
theorem Plan.Attempts.refused (h : q.Attempts n o k l) (hk : k ≤ j) (hj : j < n) : attemptRefused q.par q.tpl l j := by
  obtain ⟨o', hattempt, hrefused, -⟩ := h.filter hk hj.le
  obtain rfl := hrefused hj
  obtain ⟨m, r, r', hl, hbyte⟩ := hattempt.refused
  rw [List.filter_filter] at hl
  refine ⟨m, r, r', ?_, hbyte⟩
  rw [← hl]
  exact List.filter_congr fun c _ => by rw [Bool.decide_and, Bool.and_comm]

end Attempts

/-- Settles O50: the calls numbered `k` are those of one attempt, and the epilog is its end. -/
theorem everyAttemptEndsWithOneStop : Obligations.EveryAttemptEndsWithOneStop := by
  intro i s t l hi h hcalls hpending hne
  obtain ⟨q, budget, o, -, htpl, hop, hattempts⟩ := busOp_operated hi h hcalls hne
  have ho := hop.returned hpending
  rw [← htpl]
  refine ⟨Nat.succ.inj (hattempts.stops ho), hattempts.getLast?_epilog ho, fun k hk hle => ?_⟩
  obtain ⟨x, hattempt⟩ := hattempts.filter_ended ho hk hle
  obtain ⟨r, hr, hepilog, -⟩ := hattempt.getLast?_epilog
  exact ⟨hattempt.stops, r, hr, hepilog⟩

/-- Settles O53: every attempt follows the same plan, only `Nack` is followed by another, and a transport failure makes
its attempt end in `Transport`. -/
theorem onlyRefusalsAreRetried : Obligations.OnlyRefusalsAreRetried := by
  intro i s t l hi h hpending hcalls
  by_cases hne : l = []
  · subst hne
    exact ⟨fun _ _ _ hne => absurd rfl hne, ⟨.close, fun _ _ _ hne => absurd rfl hne⟩, nofun⟩
  obtain ⟨q, budget, o, hpar, htpl, hop, hattempts⟩ := busOp_operated hi h hcalls hne
  have ho := hop.returned hpending
  rw [← hpar, ← htpl]
  refine ⟨fun k hk hlt _ => hattempts.refused hk hlt,
    ⟨.sendCommands (q.tpl.prologCmd q.first), fun k hk hle _ => ?_⟩, fun r hr hfailed => ?_⟩
  · obtain ⟨o', hattempt, -⟩ := hattempts.filter hk hle
    exact hattempt.startsWith
  · obtain ⟨htransport, hattempt⟩ := hattempts.transport ho hr hfailed
    exact ⟨hop.transport htransport, hattempt, hattempts.getLast?_epilog ho⟩

/-! ### The bounds (R170, R317) -/

/-- Where the procedure called the Command Engine, it made at least one attempt, `budget` at most, and so many calls in
each. -/
def Proc.Bounded (s : State) (budget bound : Nat) (p : Proc Result) : Prop :=
  ∀ t l, p.run.outcome = .next t → t.calls = s.calls ++ l → l ≠ [] →
    1 ≤ t.attempt ∧ t.attempt ≤ budget ∧ l.length ≤ budget * bound

theorem Operated.bounds {q : Plan} {budget : Nat} {s t : State} {o : Option PhaseOutcome} {l : List CallRecord}
    (h : Operated q budget s t o) (hcalls : t.calls = s.calls ++ l) :
    1 ≤ t.attempt ∧ t.attempt ≤ budget ∧ l.length ≤ budget * (2 * q.trips + 2) := by
  have hattempts := h.attempts hcalls
  refine ⟨hattempts.le, h.attempt, hattempts.length_le.trans (Nat.mul_le_mul_right _ ?_)⟩
  rw [Nat.add_sub_cancel]
  exact h.attempt

section Bounded

variable {s : State} {x : Transaction} {trips : Nat}

theorem rejected_bounded (budget bound : Nat) (k : ErrKind) : (Proc.done (.err k) s).Bounded s budget bound := by
  intro t l h hcalls hne
  exact absurd (List.append_right_eq_self.1 (hcalls.symm.trans (calls_of_rejected h))) hne

theorem run_bounded (h : (s.setTxn x).plan.trips = trips) :
    (run (s.setTxn x)).Bounded s Config.attemptsMax (2 * trips + 2) := by
  intro t l hout hcalls _
  obtain ⟨o, ho⟩ := run_operated hout
  exact h ▸ ho.bounds hcalls

theorem runPoll_bounded (h : (s.setTxn x).plan.trips = trips) :
    (runPoll (s.setTxn x)).Bounded s Config.pollAttempts (2 * trips + 2) := by
  intro t l hout hcalls _
  obtain ⟨o, ho⟩ := runPoll_operated hout
  exact h ▸ ho.bounds hcalls

variable (a n : Nat) (out : Bytes)

theorem readTrips_of_pos {c : Int} (hc : 1 ≤ c) : readTrips c n = chunkCount c.toNat n := if_pos hc

theorem readOp_bounded :
    (readOp a n s).Runs (Proc.Bounded s Config.attemptsMax (2 * (1 + chunkCount s.chunkSize.toNat n) + 2)) :=
  whenFree_runs (validated_runs_err _ (rejected_bounded _ _) (needsChunks_runs_pos fun hc =>
    run_bounded (congrArg (1 + ·) (readTrips_of_pos n hc))))

theorem writeOp_bounded : (writeOp a out s).Runs (Proc.Bounded s Config.attemptsMax (2 * (1 + out.length) + 2)) :=
  whenFree_runs (validated_runs_err _ (rejected_bounded _ _) (run_bounded rfl))

theorem exchangeOp_bounded :
    (exchangeOp a out n s).Runs (Proc.Bounded s Config.attemptsMax
      (2 * (1 + (out.length + (1 + chunkCount s.chunkSize.toNat n))) + 2)) :=
  whenFree_runs (validated_runs_err _ (rejected_bounded _ _) (needsChunks_runs_pos fun hc =>
    run_bounded (congrArg (fun k => 1 + (out.length + (1 + k))) (readTrips_of_pos n hc))))

theorem pollOp_bounded : (pollOp a s).Runs (Proc.Bounded s Config.pollAttempts 4) :=
  whenFree_runs (validated_runs_err _ (rejected_bounded _ _) (runPoll_bounded (trips := 1) (by
    rw [State.plan, State.setTxn_txn, pollTxn_op, tripsAfterFirstProlog])))

/-- What the bound of its operation says of an instruction. -/
theorem exec_bounded {i : Instr} {o : Operation} {t : State} {l : List CallRecord} {budget bound : Nat}
    (ho : operationOf i s = some o) (hruns : o.Runs (Proc.Bounded s budget bound)) (h : exec i s = .next t)
    (hcalls : t.calls = s.calls ++ l) (hne : l ≠ []) :
    1 ≤ t.attempt ∧ t.attempt ≤ budget ∧ l.length ≤ budget * bound := by
  obtain ⟨p, hp, hout⟩ := exec_next_of_runs ho hruns h
  exact hp t l hout hcalls hne

end Bounded

/-- Settles O52: an attempt makes two calls in each round trip of its body and two in its epilog. -/
theorem attemptsAndCallsAreBounded : Obligations.AttemptsAndCallsAreBounded := by
  intro s t a n out l hcalls hne k
  refine ⟨fun _ h => ?_, fun h => ?_, fun _ h => ?_, fun h => ?_⟩
  · obtain ⟨hpos, hle, hlength⟩ := exec_bounded rfl (readOp_bounded a n) h hcalls hne
    exact ⟨hpos, hle, by rw [Config.attemptsMax] at hlength; omega⟩
  · obtain ⟨hpos, hle, hlength⟩ := exec_bounded rfl (writeOp_bounded a out) h hcalls hne
    exact ⟨hpos, hle, by rw [Config.attemptsMax] at hlength; omega⟩
  · obtain ⟨hpos, hle, hlength⟩ := exec_bounded rfl (exchangeOp_bounded a n out) h hcalls hne
    exact ⟨hpos, hle, by rw [Config.attemptsMax] at hlength; omega⟩
  · obtain ⟨hpos, hle, hlength⟩ := exec_bounded rfl (pollOp_bounded a) h hcalls hne
    exact ⟨Nat.le_antisymm hle hpos, hlength⟩

end Sys2Proof.Machine
end

section
/-! PROOFS. The operations family (spec/42_operations.md): validation (R190), one result for each operation (R195),
and the transactions that complete in one attempt (R191 to R194, R197). -/

namespace Sys2Proof.Machine

/-! ### Validation (R190) -/

theorem firstError_of_pass {c : Bool × ErrKind} {rest : List (Bool × ErrKind)} (h : c.1 = true) :
    firstError (c :: rest) = firstError rest := if_pos h

theorem firstError_of_fail {c : Bool × ErrKind} {rest : List (Bool × ErrKind)} (h : c.1 = false) :
    firstError (c :: rest) = some c.2 := if_neg (Bool.eq_false_iff.1 h)

/-- An operation that fails its validation on a free engine changes nothing but the answer (60_exceptions.md R266). -/
theorem outcome_of_invalid {s : State} (hs : s.free) {e : Option ErrKind} {k : ErrKind} (he : e = some k)
    (rest : Operation) :
    (whenFree s (validated e s rest)).outcome = .next { s with responses := s.responses ++ [.err k] } := by
  obtain ⟨hphase, -⟩ := id hs
  rw [whenFree_of_free hs, he, validated, endWith_outcome, ← hphase]
  rfl

/-- Settles O36: in the list of checks those before the failing one pass. -/
theorem validationInOrder : Obligations.ValidationInOrder := by
  intro s a n out hs answers
  have rejected {e : Option ErrKind} {k : ErrKind} (rest : Operation) (he : e = some k) :
      (whenFree s (validated e s rest)).outcome = answers k := outcome_of_invalid hs he rest
  have hlength (h : n ≠ 0) : (lengthCheck n s).1 = true := decide_eq_true (Nat.one_le_iff_ne_zero.2 h)
  have hshort (h : n = 0) : (lengthCheck n s).1 = false := decide_eq_false (by omega)
  have hpayload (h : out ≠ []) : (payloadCheck out s).1 = true := decide_eq_true (List.length_pos_iff.2 h)
  have hempty (h : out = []) : (payloadCheck out s).1 = false := by subst h; rfl
  refine ⟨fun hfar => ?_, fun hnear => ?_⟩
  · have haddress : (addressCheck a).1 = false := decide_eq_false (Nat.not_le.2 hfar)
    exact ⟨rejected _ (firstError_of_fail haddress), rejected _ (firstError_of_fail haddress),
      rejected _ (firstError_of_fail haddress), rejected _ (firstError_of_fail haddress)⟩
  · have haddress {rest : List (Bool × ErrKind)} : firstError (addressCheck a :: rest) = firstError rest :=
      firstError_of_pass (decide_eq_true hnear)
    refine ⟨fun hout => ?_, fun hn => ?_, fun hout hn => ?_, fun hout hn => ?_, fun hmode => ?_⟩
    · have hfail {rest : List (Bool × ErrKind)} := firstError_of_fail (rest := rest) (hempty hout)
      exact ⟨rejected _ (haddress.trans hfail), rejected _ (haddress.trans hfail)⟩
    · exact rejected _ (haddress.trans (firstError_of_fail (hshort hn)))
    · exact rejected _ (haddress.trans ((firstError_of_pass (hpayload hout)).trans (firstError_of_fail (hshort hn))))
    · have hbound : (boundCheck n).1 = false := decide_eq_false (Nat.not_le.2 hn)
      exact rejected _ (haddress.trans ((firstError_of_pass (hpayload hout)).trans
        ((firstError_of_pass (hlength (by omega))).trans (firstError_of_fail hbound))))
    · have hunconfigured : firstError [configuredCheck s] = some .configurationError := firstError_of_fail hmode
      refine ⟨fun hn => ?_, fun hout => ?_, fun hout hn hmax => ?_, rejected _ (haddress.trans hunconfigured)⟩
      · exact rejected _ (haddress.trans ((firstError_of_pass (hlength hn)).trans hunconfigured))
      · exact rejected _ (haddress.trans ((firstError_of_pass (hpayload hout)).trans hunconfigured))
      · have hbound : (boundCheck n).1 = true := decide_eq_true hmax
        exact rejected _ (haddress.trans ((firstError_of_pass (hpayload hout)).trans
          ((firstError_of_pass (hlength hn)).trans ((firstError_of_pass hbound).trans hunconfigured))))

/-! ### One result, or stuck (R195, 20_memory.md R78) -/

/-- Until it ends the procedure delivers no result; it returns with no call pending that was not pending in `s`, or is
stuck in the call that did not return. -/
def Proc.Undelivered {α : Type} (s : State) (p : Proc α) : Prop :=
  p.Ensures (fun _ t => t.pending = s.pending ∧ t.responses = s.responses)
    fun t => ∃ u c, u.responses = s.responses ∧ t = hung c u

theorem Proc.Undelivered.andThen {α β : Type} {s : State} {p : Proc α} {f : α → State → Proc β}
    (h : p.Undelivered s)
    (hf : ∀ a t, t.pending = s.pending ∧ t.responses = s.responses → (f a t).Undelivered s) :
    (p.andThen f).Undelivered s :=
  Proc.Ensures.andThen h hf

theorem Proc.Keeps.undelivered {α : Type} {s : State} {p : Proc α} (h : p.Keeps BusFrame s) : p.Undelivered s :=
  h.mono (fun _ _ ht => ⟨ht.pending, ht.responses⟩) fun _ ⟨u, c, hu, e, _⟩ => ⟨u, c, hu.responses, e⟩

/-- One call, and nothing after its answer. -/
theorem Proc.call_undelivered {α : Type} {s t : State} (h : t.pending = s.pending ∧ t.responses = s.responses)
    (c : Call) (f : Answer → α) : (Proc.call c t fun a u => .done (f a) u).Undelivered s := by
  cases hp : perform c t with
  | none =>
    exact (Proc.ensures_of_run_stuck (Proc.run_call_of_none hp _)).2
      ⟨t.setCe (t.ce.interrupted t.par c), c, h.2, hang_eq c t⟩
  | some r =>
    obtain ⟨-, hu⟩ := perform_frame (a := r.1) (t := r.2) hp
    exact (Proc.ensures_of_run_done (Proc.run_call_of_some hp _)).2 (hu ▸ h)

theorem configureRun_undelivered (f : Freq) (z : Bool) (s : State) : (configureRun f z s).Undelivered s :=
  (Proc.call_undelivered ⟨rfl, rfl⟩ _ _).andThen fun c t ht => by
    cases c with
    | none => exact ht
    | some caps =>
      refine (Proc.call_undelivered ht _ _).andThen fun _ t ht => (Proc.call_undelivered ht _ _).andThen fun _ t ht =>
        (Proc.call_undelivered ht _ _).andThen fun w t ht => ?_
      split
      · exact (Proc.call_undelivered ht _ _).andThen fun _ t ht => ht
      · exact ht

theorem terminateRun_undelivered (s : State) : (terminateRun s).Undelivered s := by
  unfold terminateRun
  split
  · exact (Proc.call_undelivered ⟨rfl, rfl⟩ _ _).andThen fun _ t ht => ht
  · exact ⟨rfl, rfl⟩

theorem getSlaveRun_undelivered (a : Nat) (s : State) : (getSlaveRun a s).Undelivered s := by
  unfold getSlaveRun
  split
  · exact ⟨rfl, rfl⟩
  · split <;> exact ⟨rfl, rfl⟩

theorem flushRun_undelivered (s : State) : (flushRun s).Undelivered s := by
  unfold flushRun
  split
  · exact ⟨rfl, rfl⟩
  · refine (Proc.call_undelivered ⟨rfl, rfl⟩ _ _).andThen fun ok t ht => ?_
    split <;> exact ht

/-- No procedure a host request can start delivers a result before its end. -/
theorem Started.undelivered {s : State} {p : Proc Result} (h : Started s p) : p.Undelivered s := by
  cases h with
  | atOnce r => exact ⟨rfl, rfl⟩
  | handle r found ok => exact ⟨rfl, rfl⟩
  | configure f z => exact configureRun_undelivered f z s
  | terminate => exact terminateRun_undelivered s
  | getSlave a => exact getSlaveRun_undelivered a s
  | flush => exact flushRun_undelivered s
  | transaction x => exact (run_frame (s.setTxn x)).undelivered
  | poll x => exact (runPoll_frame (s.setTxn x)).undelivered

/-- A host request that answers a next state started on a free engine. -/
theorem free_of_exec_next {i : Instr} {s t : State} (hi : i.format ≠ .command) (h : exec i s = .next t) : s.free := by
  by_contra hs
  rw [busyEngineRefuses i s hi hs] at h
  cases h

/-- Settles O48: the one result is delivered where the procedure ends. -/
theorem oneResultOrStuck : Obligations.OneResultOrStuck := by
  intro i s t hi h
  obtain ⟨-, hpending⟩ := free_of_exec_next hi h
  obtain ⟨o, ho⟩ := Option.ne_none_iff_exists'.1 (mt (operationOf_eq_none_iff i s).1 hi)
  obtain ⟨p, hp, hout⟩ := exec_next_of_runs ho (operationOf_runs ho) h
  rcases Run.outcome_next hout with ⟨r, u, hu, rfl⟩ | hstuck
  · obtain ⟨hcall, hresponses⟩ := (Proc.ensures_of_run_done hu).1 hp.undelivered
    exact .inl ⟨hcall.trans hpending, rfl, r, congrArg (· ++ [r]) hresponses⟩
  · obtain ⟨u, c, hresponses, rfl⟩ := (Proc.ensures_of_run_stuck hstuck).1 hp.undelivered
    exact .inr ⟨nofun, hresponses, _, List.getLast?_concat, rfl, rfl⟩

/-! ### Reply bytes (20_memory.md R70) -/

/-- The units that sample the data line, and so produce a reply byte (R138, R141). -/
def isSampling : CmdUnit → Bool
  | .readBit | .readByte => true
  | .idle | .dataLow | .clkDataLow | .clkLowDataHigh | .writeByte _ | .ack | .nack | .flush => false

theorem CmdEngine.outstanding_unit (p : Pins) (u : CmdUnit) (c : CmdEngine) :
    (c.unit p u).outstanding = c.outstanding + [u].countP isSampling := by
  have reply {d : CmdEngine} (b : Byte) : (d.reply b).outstanding = d.outstanding + 1 := by
    simp only [outstanding, CmdEngine.reply, List.length_append, List.length_singleton, Nat.add_assoc]
  cases u with
  | readBit => exact reply _
  | readByte => exact reply _
  | flush => simp [unit, flush, outstanding, isSampling]
  | _ => rfl

theorem CmdEngine.outstanding_units (p : Pins) (us : List CmdUnit) (c : CmdEngine) :
    (c.units p us).outstanding = c.outstanding + us.countP isSampling := by
  induction us generalizing c with
  | nil => rfl
  | cons u us ih =>
    have hcons : c.units p (u :: us) = (c.unit p u).units p us := rfl
    rw [hcons, ih, outstanding_unit, Nat.add_assoc, ← List.countP_append, List.singleton_append]

theorem CmdEngine.outstanding_consume (k : Nat) (c : CmdEngine) :
    (c.consume k).outstanding = c.outstanding - k := by
  simp only [outstanding, consume, List.length_drop]
  omega

/-- A buffer that, accepted, makes the Command Engine produce `n` reply bytes. -/
def Replies (P : Params) (v : Bytes) (n : Nat) : Prop :=
  ∀ c : CmdEngine, (c.execute P v).outstanding = c.outstanding + n

/-- A buffer of units that are no `STOP` has a reply for each sampling unit. -/
theorem replies_unitsBytes {P : Params} (he : P.EncOk) {us : List CmdUnit} (hus : us ≠ stopUnits P) :
    Replies P (unitsBytes P us) (us.countP isSampling) := by
  intro c
  rw [CmdEngine.execute, if_neg fun h => hus (unitsBytes_injective he h), unitsOf_unitsBytes he,
    CmdEngine.outstanding_units]

theorem countP_rep {α : Type} (f : α → Bool) (k : Nat) (l : List α) : (rep k l).countP f = k * l.countP f := by
  simp [rep, List.countP_flatten]

/-- Only `STOP` begins with a low clock. -/
theorem ne_stopUnits {P : Params} {u : CmdUnit} (h : u ≠ .clkDataLow) (us : List CmdUnit) : u :: us ≠ stopUnits P := by
  obtain ⟨vs, hvs⟩ := stopUnits_eq_cons P
  rw [hvs]
  exact fun heq => h (List.head_eq_of_cons_eq heq)

section Replies

variable {s : State}

theorem State.Built.tpl (hs : s.Built) : s.tpl = buildTemplates s.par := hs.2

theorem State.Built.encOk (hs : s.Built) : s.par.EncOk := by
  obtain ⟨hpar, -⟩ := hs
  obtain ⟨-, henc, -⟩ := (Params.ok_iff _).1 hpar
  exact henc

/-- A buffer taken from the built templates whose units begin with `u`, no low clock. -/
theorem State.Built.replies (hs : s.Built) {f : Templates → Bytes} {u : CmdUnit} {us : List CmdUnit} {n : Nat}
    (hf : f (buildTemplates s.par) = unitsBytes s.par (u :: us)) (hu : u ≠ .clkDataLow)
    (hn : (u :: us).countP isSampling = n) : Replies s.par (f s.tpl) n := by
  rw [hs.tpl, hf, ← hn]
  exact replies_unitsBytes hs.encOk (ne_stopUnits hu us)

theorem State.Built.replies_prologCmd (hs : s.Built) (ab : Byte) : Replies s.par (s.tpl.prologCmd ab) 1 :=
  hs.replies (f := (·.prologCmd ab)) (buildTemplates_prologCmd _ ab) (by decide) rfl

theorem State.Built.replies_wu (hs : s.Built) (b : Byte) : Replies s.par (s.tpl.wu b) 1 :=
  hs.replies (f := (·.wu b)) (buildTemplates_wu _ b) nofun rfl

theorem State.Built.replies_chunkMid (hs : s.Built) {n : Nat} (hn : 1 ≤ n) : Replies s.par (s.tpl.chunkMid n) n := by
  obtain ⟨k, rfl⟩ := Nat.exists_eq_add_of_le' hn
  refine hs.replies (f := (·.chunkMid _)) (buildTemplates_chunkMid _ _) (u := .readByte) (by decide) ?_
  exact (countP_rep isSampling (k + 1) ruAckUnits).trans (Nat.mul_one _)

theorem readByte_cons_chunkLastUnits (n : Nat) : ∃ us, chunkLastUnits n = .readByte :: us := by
  cases h : n - 1 with
  | zero => exact ⟨_, by rw [chunkLastUnits, h]; rfl⟩
  | succ k => exact ⟨_, by rw [chunkLastUnits, h]; rfl⟩

theorem State.Built.replies_chunkLast (hs : s.Built) {n : Nat} (hn : 1 ≤ n) : Replies s.par (s.tpl.chunkLast n) n := by
  obtain ⟨us, hus⟩ := readByte_cons_chunkLastUnits n
  refine hs.replies (f := (·.chunkLast n)) ((buildTemplates_chunkLast _ n).trans (by rw [hus])) (by decide) ?_
  have hack : ruAckUnits.countP isSampling = 1 := rfl
  have hnack : (ruNackUnits ++ [CmdUnit.flush]).countP isSampling = 1 := rfl
  rw [← hus, chunkLastUnits, List.append_assoc, List.countP_append, countP_rep, hack, hnack]
  omega

theorem State.Built.replies_stop (hs : s.Built) : Replies s.par s.tpl.stop 1 := by
  intro c
  have hcount : (stopUnits s.par).countP isSampling = 0 := by
    simp [stopUnits, List.countP_replicate, isSampling]
  have hstop : c.execute s.par s.tpl.stop = (c.units s.par.pins (stopUnits s.par)).stopReply := by
    rw [hs.tpl]
    exact if_pos rfl
  obtain ⟨reply, n, hreply⟩ := (c.units s.par.pins (stopUnits s.par)).stopReply_eq
  have hunits := c.outstanding_units s.par.pins (stopUnits s.par)
  rw [hcount, CmdEngine.outstanding] at hunits
  rw [hstop, hreply, CmdEngine.outstanding, List.length_append, List.length_singleton, ← Nat.add_assoc, hunits]

variable (v r : Bytes) (n budget : Nat) (sends : List Bool) (receives : List Bytes)

/-! A round trip writes no register of the block. -/

@[simp] theorem tripped_txn : (tripped v n budget r sends receives s).txn = s.txn := by simp [tripped, received, sent]

@[simp] theorem tripped_chunkCache : (tripped v n budget r sends receives s).chunkCache = s.chunkCache := by
  simp [tripped, received, sent]

@[simp] theorem tripped_ackBit : (tripped v n budget r sends receives s).ackBit = s.ackBit := by
  simp [tripped, received, sent]

@[simp] theorem tripped_ce :
    (tripped v n budget r sends receives s).ce = (s.ce.execute s.par v).consume r.length := by
  simp [tripped, received, sent]

variable {v r}

/-- A round trip that gets all the reply bytes of its buffer leaves as many as there were. -/
theorem outstanding_tripped (hv : Replies s.par v r.length) :
    (tripped v n budget r sends receives s).ce.outstanding = s.ce.outstanding := by
  rw [tripped_ce, CmdEngine.outstanding_consume, hv, Nat.add_sub_cancel]

end Replies

/-! ### What a transaction that is answered leaves (R191 to R194) -/

/-- Everything a round trip returns: a transport failure, or what follows the bytes received. -/
theorem roundTrip_returns_tripped {v : Bytes} {n budget : Nat} {s : State} {k : Bytes → State → Proc PhaseOutcome}
    {Q : PhaseOutcome → State → Prop} (hfailed : ∀ t, Q .transport t)
    (hk : ∀ r sends receives, r.length ≤ n → (k r (tripped v n budget r sends receives s)).Returns Q) :
    (roundTrip v n budget s k).Returns Q := by
  match hsends : s.env.sends, hreceives : s.env.receives with
  | [], _ => exact (Proc.ensures_of_run_stuck (roundTrip_stalled hsends v n budget k)).2 trivial
  | false :: _, _ => exact (Proc.ensures_of_run_done (roundTrip_failed v n budget k hsends)).2 (hfailed _)
  | true :: _, [] =>
    exact (Proc.ensures_of_run_stuck (roundTrip_unanswered v n budget k hsends hreceives)).2 trivial
  | true :: sends, r :: receives =>
    have h := hk (r.take n) sends receives (List.length_take_le n r)
    unfold Proc.Returns Proc.Ensures at h ⊢
    rwa [roundTrip_answered v n budget k hsends hreceives]

theorem ifAcked_returns_of {p : Proc PhaseOutcome} {k : State → Proc PhaseOutcome} {Q Q' : PhaseOutcome → State → Prop}
    (h : p.Returns Q) (hk : ∀ d t, Q (.acked d) t → (k t).Returns Q') (hnack : ∀ t, Q .nack t → Q' .nack t)
    (htransport : ∀ t, Q' .transport t) : (ifAcked p k).Returns Q' :=
  h.andThen fun o t ht => by
    cases o with
    | acked d => exact hk d t ht
    | nack => exact hnack t ht
    | transport => exact htransport t

/-- From `s` to `t` the engine consumed as many reply bytes as the Command Engine produced, and wrote no register but
`PHASE` and `ACKBIT`. -/
structure Matched (s t : State) : Prop where
  registers : s.RegistersOk → t.RegistersOk
  frame : BusFrame s t
  chunkCache : t.chunkCache = s.chunkCache
  txn : t.txn = s.txn
  outstanding : t.ce.outstanding = s.ce.outstanding

/-- Where bytes were sent and each was answered, all replies were consumed, and `ACKBIT` says whether one was a refusal
(10_state.md R29). -/
def Answered (s : State) (o : PhaseOutcome) (t : State) : Prop :=
  o ≠ .transport → Matched s t ∧ t.ackBit = decide (o = .nack)

/-- `t` is where the answered read of `n` bytes, `d` in the end in `RBUF`, leads from `s`. -/
structure ReadIn (s : State) (n : Nat) (d : Bytes) (t : State) : Prop where
  txn : t.txn = { s.txn with rem := 0, rbuf := d }
  chunkCache : t.chunkCache = cacheAfter s n
  outstanding : t.ce.outstanding = s.ce.outstanding
  ackBit : t.ackBit = false

/-- Where the outcome is `Acked`, the `n` bytes of a read have come in. -/
def AckedRead (s : State) (n : Nat) (o : PhaseOutcome) (t : State) : Prop := ∀ d, o = .acked d → ReadIn s n d t

section Answered

variable {s t u : State}

theorem BusFrame.tpl (h : BusFrame s t) : t.tpl = s.tpl := by
  obtain ⟨-, -, htpl, -⟩ := h.config
  exact htpl

theorem BusFrame.chunkSize (h : BusFrame s t) : t.chunkSize = s.chunkSize := by
  obtain ⟨-, -, -, hsize, -⟩ := h.config
  exact hsize

theorem BusFrame.built (h : BusFrame s t) (hs : s.Built) : t.Built := by
  obtain ⟨-, -, htpl, -, -, -, -, hpar⟩ := h.config
  rw [State.Built, hpar, htpl]
  exact hs

theorem Progress.matched {sends : List Bool} {receives : List Bytes} {l : List CallRecord}
    (h : Progress s t sends receives l) (hcache : t.chunkCache = s.chunkCache) (htxn : t.txn = s.txn)
    (houtstanding : t.ce.outstanding = s.ce.outstanding) : Matched s t :=
  ⟨h.registers, h.frame, hcache, htxn, houtstanding⟩

theorem Matched.refl (s : State) : Matched s s := (Progress.refl s).matched rfl rfl rfl

theorem matched_setPhase (s : State) {p : Phase} (hp : p ≠ .idle) : Matched s (s.setPhase p) :=
  (progress_setPhase s hp).matched rfl rfl rfl

theorem matched_setAckBit (s : State) (b : Bool) : Matched s (s.setAckBit b) :=
  (progress_setAckBit s b).matched rfl rfl rfl

theorem matched_tripped {v r : Bytes} (hv : Replies s.par v r.length) (n budget : Nat) (sends : List Bool)
    (receives : List Bytes) : Matched s (tripped v n budget r sends receives s) :=
  (progress_tripped v n budget r).matched (tripped_chunkCache ..) (tripped_txn ..) (outstanding_tripped _ _ _ _ hv)

theorem Matched.trans (h : Matched s t) (h' : Matched t u) : Matched s u where
  registers := h'.registers ∘ h.registers
  frame := busFrame_closed.trans h.frame h'.frame
  chunkCache := h'.chunkCache.trans h.chunkCache
  txn := h'.txn.trans h.txn
  outstanding := h'.outstanding.trans h.outstanding

theorem Answered.after {o : PhaseOutcome} (h : Matched s t) (h' : Answered t o u) : Answered s o u :=
  fun ho => ⟨h.trans (h' ho).1, (h' ho).2⟩

/-- A byte is sent, and its reply tested. -/
theorem roundTrip_ackTest_answered {v : Bytes} (hv : Replies s.par v 1) (budget : Nat) :
    (roundTrip v 1 budget s ackTest).Returns (Answered s) := by
  refine roundTrip_returns_tripped (fun _ h => absurd rfl h) fun r sends receives hr => ?_
  rcases ackTest_cases hr (tripped v 1 budget r sends receives s) with ⟨-, htest⟩ | ⟨b, rfl, htest⟩
  · rw [htest]
    exact fun h => absurd rfl h
  · have hmatched := matched_tripped (r := [b]) hv 1 budget sends receives
    rcases htest with ⟨-, htest⟩ | ⟨-, htest⟩ <;> rw [htest]
    · exact fun _ => ⟨hmatched.trans (matched_setAckBit _ _), rfl⟩
    · exact fun _ => ⟨hmatched.trans (matched_setAckBit _ _), rfl⟩

theorem prolog_answered (hs : s.Built) (ab : Byte) : (prolog ab s).Returns (Answered s) :=
  Proc.Ensures.mono (roundTrip_ackTest_answered (s := s.setPhase .prolog) (hs.replies_prologCmd ab) _)
    (fun _ _ => .after (matched_setPhase s (by decide))) fun _ => id

theorem ifAcked_answered {p : Proc PhaseOutcome} {k : State → Proc PhaseOutcome} (h : p.Returns (Answered s))
    (hk : ∀ t, Matched s t → t.ackBit = false → (k t).Returns (Answered t)) : (ifAcked p k).Returns (Answered s) :=
  ifAcked_returns_of h
    (fun d t ht => by
      obtain ⟨hmatched, hack⟩ := ht nofun
      exact (hk t hmatched hack).mono (fun _ _ => Answered.after hmatched) fun _ => id)
    (fun _ => id) fun _ h => absurd rfl h

theorem writeBytes_cons (b : Byte) (out : Bytes) (s : State) :
    writeBytes (b :: out) s = ifAcked (roundTrip (s.tpl.wu b) 1 s.par.rxBudget s ackTest) (writeBytes out) :=
  (ifAcked_roundTrip _ _ _ _ _ _).symm

theorem writeBytes_answered (hs : s.Built) (hack : s.ackBit = false) (out : Bytes) :
    (writeBytes out s).Returns (Answered s) := by
  induction out generalizing s with
  | nil => exact fun _ => ⟨.refl s, hack⟩
  | cons b out ih =>
    rw [writeBytes_cons]
    exact ifAcked_answered (roundTrip_ackTest_answered (hs.replies_wu b) _) fun t ht hack => ih (ht.frame.built hs) hack

theorem writePhase_answered (hs : s.Built) (hack : s.ackBit = false) (out : Bytes) :
    (writePhase out s).Returns (Answered s) :=
  Proc.Ensures.mono (writeBytes_answered (s := s.setPhase .payload) hs hack out)
    (fun _ _ => .after (matched_setPhase s (by decide))) fun _ => id

/-! #### The read phase (41_phases.md R164 to R166) -/

/-- A chunk of the read is fetched with the cache as the whole read leaves it. -/
theorem nextChunk_state (hs : s.RegistersOk) : (nextChunk s).2.2 = s.setCache (cacheAfter s s.txn.rem) := by
  unfold nextChunk cacheAfter
  split
  · obtain ⟨-, -, -, -, hempty | hone⟩ := hs
    · simp [cachedChunkMid, hempty, mapPut, Templates.chunkMid]
    · have hhit : (cachedChunkMid s.chunkSize.toNat s).2 = s := by simp [cachedChunkMid, hone, mapGet]
      rw [← hone]
      exact hhit
  · rfl

/-- The rest of a read leaves the cache as the first part did. -/
theorem cacheAfter_of_le {m n : Nat} (h : m ≤ n) (hsize : t.chunkSize = s.chunkSize) (htpl : t.tpl = s.tpl)
    (hcache : t.chunkCache = cacheAfter s n) : cacheAfter t m = cacheAfter s n := by
  rw [cacheAfter, hsize, htpl]
  split
  · next hm => rw [cacheAfter, if_pos (by omega)]
  · exact hcache

theorem nextChunk_replies (hs : s.Built) (hregs : s.RegistersOk) (hsize : 1 ≤ s.chunkSize) (hrem : s.txn.rem ≠ 0) :
    Replies s.par (nextChunk s).2.1 (nextChunk s).1 := by
  by_cases hlast : (s.txn.rem : Int) ≤ s.chunkSize
  · rw [nextChunk_of_le hlast]
    exact hs.replies_chunkLast (by omega)
  · rw [nextChunk_of_gt hregs (by omega)]
    exact hs.replies_chunkMid (by omega)

theorem readIn_of_rem_zero (hack : s.ackBit = false) (hsize : 1 ≤ s.chunkSize) (h : s.txn.rem = 0) :
    ReadIn s s.txn.rem s.txn.rbuf s := by
  refine ⟨?_, ?_, rfl, hack⟩
  · rw [← h]
  · rw [h, cacheAfter, if_neg (by omega)]

/-- The state in which the next chunk, `r`, has come in full. -/
def chunkTaken (r : Bytes) (sends : List Bool) (receives : List Bytes) (s : State) : State :=
  takeChunk r.length r
    (tripped (nextChunk s).2.1 r.length s.par.rxBudget r sends receives (s.setCache (cacheAfter s s.txn.rem)))

section Chunk

variable (r : Bytes) (sends : List Bool) (receives : List Bytes)

theorem chunkTaken_txn : (chunkTaken r sends receives s).txn =
    { s.txn with rbuf := s.txn.rbuf ++ r, rem := s.txn.rem - r.length } := by
  simp [chunkTaken, takeChunk]

theorem chunkTaken_chunkCache : (chunkTaken r sends receives s).chunkCache = cacheAfter s s.txn.rem := by
  simp [chunkTaken, takeChunk]

theorem chunkTaken_ackBit : (chunkTaken r sends receives s).ackBit = s.ackBit := by
  simp [chunkTaken, takeChunk]

theorem chunkTaken_ce :
    (chunkTaken r sends receives s).ce = (s.ce.execute s.par (nextChunk s).2.1).consume r.length := by
  simp [chunkTaken, takeChunk]

theorem progress_takeChunk (n : Nat) (s : State) : Progress s (takeChunk n r s) s.env.sends s.env.receives [] :=
  progress_readRegs s (s.txn.rem - n) (s.txn.rbuf ++ r)

theorem progress_chunkTaken (hs : s.RegistersOk) :
    ∃ l, Progress s (chunkTaken r sends receives s) sends receives l := by
  have hnext := (progress_nextChunk s).1
  rw [nextChunk_state hs] at hnext
  have htrip := hnext.trans
    (progress_tripped (sends := sends) (receives := receives) (nextChunk s).2.1 r.length s.par.rxBudget r)
  exact ⟨_, htrip.then_silent (progress_takeChunk r r.length _)⟩

variable {r}

/-- A chunk received in full is a first part of the read. -/
theorem ReadIn.of_chunkTaken {d : Bytes} (hs : s.Built) (hregs : s.RegistersOk) (hsize : 1 ≤ s.chunkSize)
    (hrem : s.txn.rem ≠ 0) (hr : r.length = (nextChunk s).1)
    (h : ReadIn (chunkTaken r sends receives s) (s.txn.rem - r.length) d t) : ReadIn s s.txn.rem d t := by
  have hreplies := nextChunk_replies hs hregs hsize hrem
  have houtstanding : (chunkTaken r sends receives s).ce.outstanding = s.ce.outstanding := by
    rw [chunkTaken_ce, CmdEngine.outstanding_consume, hreplies, hr, Nat.add_sub_cancel]
  obtain ⟨l, htaken⟩ := progress_chunkTaken r sends receives hregs
  have hcache : cacheAfter (chunkTaken r sends receives s) (s.txn.rem - r.length) = cacheAfter s s.txn.rem :=
    cacheAfter_of_le (Nat.sub_le _ _) htaken.chunkSize htaken.tpl (chunkTaken_chunkCache ..)
  exact ⟨by rw [h.txn, chunkTaken_txn], h.chunkCache.trans hcache, h.outstanding.trans houtstanding, h.ackBit⟩

end Chunk

theorem readChunks_ackedRead (fuel : Nat) (hs : s.Built) (hregs : s.RegistersOk) (hack : s.ackBit = false)
    (hsize : 1 ≤ s.chunkSize) (hfuel : s.txn.rem ≤ fuel) :
    (readChunks fuel s).Returns (AckedRead s s.txn.rem) := by
  induction fuel generalizing s with
  | zero =>
    rintro d ⟨⟩
    exact readIn_of_rem_zero hack hsize (Nat.le_zero.1 hfuel)
  | succ fuel ih =>
    unfold readChunks
    split
    · next hrem =>
      rintro d ⟨⟩
      exact readIn_of_rem_zero hack hsize hrem
    · next hrem =>
      rw [nextChunk_state hregs]
      refine roundTrip_returns_tripped (fun _ _ => nofun) fun r sends receives hr => ?_
      split
      · exact fun _ => nofun
      · next hfull =>
        obtain ⟨hpos, -⟩ := nextChunk_size hsize hrem
        have hlength : r.length = (nextChunk s).1 := Nat.le_antisymm hr (Nat.not_lt.1 hfull)
        obtain ⟨l, ht⟩ := progress_chunkTaken r sends receives hregs
        have hrest := ih (ht.frame.built hs) (ht.registers hregs) ((chunkTaken_ackBit ..).trans hack)
          (ht.chunkSize.symm ▸ hsize) (by simp only [chunkTaken_txn]; omega)
        simp only [chunkTaken_txn] at hrest
        rw [← hlength]
        exact hrest.mono (fun _ _ h d ho => (h d ho).of_chunkTaken _ _ hs hregs hsize hrem hlength) fun _ => id

theorem readPhase_ackedRead (n : Nat) (hs : s.Built) (hregs : s.RegistersOk) (hack : s.ackBit = false)
    (hsize : 1 ≤ s.chunkSize) : (readPhase n s).Returns (AckedRead s n) := by
  have hread := readChunks_ackedRead (s := (s.setPhase .payload).setTxn { s.txn with rem := n, rbuf := [] }) n hs hregs
    hack hsize le_rfl
  refine Proc.Ensures.mono hread (fun o t h d ho => ?_) fun _ => id
  obtain ⟨htxn, hcache, houtstanding, hack⟩ := h d ho
  exact ⟨htxn, hcache, houtstanding, hack⟩

/-! #### The body (R168) -/

theorem ReadIn.after {n : Nat} {d : Bytes} (h : Matched s t) (h' : ReadIn t n d u) : ReadIn s n d u where
  txn := by rw [h'.txn, h.txn]
  chunkCache := by rw [h'.chunkCache, cacheAfter, cacheAfter, h.frame.chunkSize, h.frame.tpl, h.chunkCache]
  outstanding := h'.outstanding.trans h.outstanding
  ackBit := h'.ackBit

/-- A read phase later in the same attempt. -/
theorem Matched.readPhase_ackedRead {n : Nat} (h : Matched s t) (hs : s.Built) (hregs : s.RegistersOk)
    (hack : t.ackBit = false) (hsize : 1 ≤ s.chunkSize) (hn : s.txn.rlen = n) :
    (readPhase t.txn.rlen t).Returns (AckedRead s n) := by
  rw [h.txn, hn]
  exact Proc.Ensures.mono (Machine.readPhase_ackedRead n (h.frame.built hs) (h.registers hregs) hack
      (h.frame.chunkSize.symm ▸ hsize))
    (fun _ _ hread d hd => (hread d hd).after h) fun _ => id

theorem ifAcked_ackedRead {p : Proc PhaseOutcome} {k : State → Proc PhaseOutcome} {r : State} {n : Nat}
    (h : p.Returns (Answered s))
    (hk : ∀ t, Matched s t → t.ackBit = false → (k t).Returns (AckedRead r n)) :
    (ifAcked p k).Returns (AckedRead r n) :=
  ifAcked_returns_of h
    (fun _ t ht => by
      obtain ⟨hmatched, hack⟩ := ht nofun
      exact hk t hmatched hack)
    (fun _ _ => nofun) fun _ => nofun

theorem body_write_answered (hop : s.txn.op = .write) (hs : s.Built) : (body s).Returns (Answered s) := by
  rw [body, hop]
  exact ifAcked_answered (prolog_answered hs _) fun t ht hack => writePhase_answered (ht.frame.built hs) hack _

theorem body_of_poll (hop : s.txn.op = .poll) : body s = prolog (firstAddressByte s) s := by
  rw [body, firstAddressByte, hop]

theorem body_poll_answered (hop : s.txn.op = .poll) (hs : s.Built) : (body s).Returns (Answered s) := by
  rw [body_of_poll hop]
  exact prolog_answered hs _

theorem body_read_ackedRead (hop : s.txn.op = .read) (hs : s.Built) (hregs : s.RegistersOk) (hsize : 1 ≤ s.chunkSize) :
    (body s).Returns (AckedRead s s.txn.rlen) := by
  rw [body, hop]
  exact ifAcked_ackedRead (prolog_answered hs _) fun t ht hack => ht.readPhase_ackedRead hs hregs hack hsize rfl

theorem body_exchange_ackedRead (hop : s.txn.op = .exchange) (hs : s.Built) (hregs : s.RegistersOk)
    (hsize : 1 ≤ s.chunkSize) : (body s).Returns (AckedRead s s.txn.rlen) := by
  rw [body, hop]
  refine ifAcked_ackedRead (prolog_answered hs _) fun t ht hack => ?_
  refine ifAcked_ackedRead (writePhase_answered (ht.frame.built hs) hack _) fun u hu _ => ?_
  have hsu := ht.trans hu
  exact ifAcked_ackedRead (prolog_answered (hsu.frame.built hs) _) fun v hv hack =>
    (hsu.trans hv).readPhase_ackedRead hs hregs hack hsize rfl

/-! #### The calls of the body (R197) -/

theorem body_write_progresses {p : Byte} {acks : Bytes} {sends : List Bool} {receives : List Bytes}
    (hop : s.txn.op = .write) (hlength : acks.length = s.txn.out.length) (hacks : AllAck (p :: acks))
    (hsends : s.env.sends = true :: (List.replicate s.txn.out.length true ++ sends))
    (hreceives : s.env.receives = [p] :: (acks.map (fun b => [b]) ++ receives)) :
    (body s).Progresses s (.acked []) sends receives
      (prologCalls s.par s.tpl s.attempt s.txn.abW [p] ++ writeCalls s.par s.tpl s.attempt s.txn.out acks) := by
  obtain ⟨hp, hacks⟩ := List.forall_mem_cons.1 hacks
  rw [body, hop]
  refine ifAcked_progresses (prolog_progresses hp hsends hreceives _) fun t ht => ?_
  rw [← ht.par, ← ht.tpl, ← ht.attempt, ← ht.frame.out]
  exact writePhase_progresses (ht.frame.out ▸ hlength) hacks (by rw [ht.env, ht.frame.out]) (by rw [ht.env])

theorem body_read_progresses {p : Byte} {chunks : List Bytes} {sends : List Bool} {receives : List Bytes}
    (hop : s.txn.op = .read) (hregs : s.RegistersOk) (hsize : 1 ≤ s.chunkSize) (hrlen : 1 ≤ s.txn.rlen)
    (hchunks : chunks.map List.length = chunkSizes s.chunkSize.toNat s.txn.rlen) (hp : ackBitOf p = false)
    (hsends : s.env.sends = true :: (List.replicate chunks.length true ++ sends))
    (hreceives : s.env.receives = [p] :: (chunks ++ receives)) :
    (body s).Progresses s (.acked chunks.flatten) sends receives
      (prologCalls s.par s.tpl s.attempt s.txn.abR [p] ++ readCalls s.par s.tpl s.attempt chunks) := by
  rw [body, hop]
  refine ifAcked_progresses (prolog_progresses hp hsends hreceives _) fun t ht => ?_
  rw [← ht.par, ← ht.tpl, ← ht.attempt]
  refine readPhase_progresses (ht.registers hregs) (ht.chunkSize ▸ hsize) (ht.frame.rlen ▸ hrlen) ?_
    (congrArg Env.sends ht.env) (congrArg Env.receives ht.env)
  rw [hchunks, ht.chunkSize, ht.frame.rlen]

/-- The outcome of a poll whose prolog is answered by `p`. -/
def pollOutcome (p : Byte) : PhaseOutcome := if ackBitOf p then .nack else .acked []

theorem body_poll_progresses {p : Byte} {sends : List Bool} {receives : List Bytes} (hop : s.txn.op = .poll)
    (hsends : s.env.sends = true :: sends) (hreceives : s.env.receives = [p] :: receives) :
    (body s).Progresses s (pollOutcome p) sends receives
      (prologCalls s.par s.tpl s.attempt (firstAddressByte s) [p]) := by
  rw [body_of_poll hop, pollOutcome]
  cases hp : ackBitOf p with
  | false => exact prolog_progresses hp hsends hreceives _
  | true =>
    obtain ⟨t, hrun, ht, -⟩ := prolog_refused hp hsends hreceives (firstAddressByte s)
    exact ⟨t, hrun, ht⟩

/-! #### The attempt and its end (R169, R170) -/

@[simp] theorem settleRead_ce (o : PhaseOutcome) (s : State) : (settleRead o s).ce = s.ce := by cases o <;> rfl

@[simp] theorem settleRead_chunkCache (o : PhaseOutcome) (s : State) : (settleRead o s).chunkCache = s.chunkCache := by
  cases o <;> rfl

theorem settleRead_txn_congr (o : PhaseOutcome) (h : t.txn = s.txn) : (settleRead o t).txn = (settleRead o s).txn := by
  cases o with
  | acked d => exact h
  | nack => exact congrArg (fun x : Transaction => { x with rbuf := [] }) h
  | transport => exact congrArg (fun x : Transaction => { x with rbuf := [] }) h

/-- `u` is where the delivered epilog of an attempt leads whose body came to `o` in `t`, `e` the epilog's reply. -/
structure Concluded (t : State) (o : PhaseOutcome) (e : Bytes) (u : State) : Prop where
  ackBit : u.ackBit = t.ackBit
  idle : u.BusIdle
  outstanding : e ≠ [] → u.ce.outstanding = t.ce.outstanding
  txn : u.txn = (settleRead o t).txn
  chunkCache : u.chunkCache = t.chunkCache

section Conclusion

variable {o : PhaseOutcome} {e : Bytes} {sends : List Bool} {receives : List Bytes} {l : List CallRecord}

/-- The end of an operation, after its last attempt, writes `PHASE` alone. -/
theorem Concluded.responded (h : Concluded t o e u) (r : Result) : Concluded t o e ((u.setPhase .idle).respond r) :=
  ⟨h.ackBit, h.idle, h.outstanding, h.txn, h.chunkCache⟩

theorem attemptOnce_concluded (hs : s.Built) (hbody : (body s).run = .done o t)
    (ht : Progress s t (true :: sends) (e :: receives) l) :
    ∃ u, (attemptOnce s).run = .done o u ∧
      Progress s u sends receives (l ++ epilogCalls s.par s.tpl s.attempt (e.take 1)) ∧ Concluded t o e u := by
  obtain ⟨u, hrun, hu, hack, hidle⟩ := attemptOnce_delivered hbody ht
  have hepilog : (epilog t).run = .done (.acked []) (tripped t.tpl.stop 1 t.par.rxBudgetEpilog (e.take 1) sends receives
      (t.setPhase .epilog)) :=
    roundTrip_answered (s := t.setPhase .epilog) _ _ _ _ (congrArg Env.sends ht.env) (congrArg Env.receives ht.env)
  have hstate := hrun
  rw [attemptOnce, Proc.run_andThen_of_done hbody, Proc.run_andThen_of_done hepilog, attemptOutcome_of_acked] at hstate
  obtain ⟨-, rfl⟩ := Run.done.inj hstate
  refine ⟨_, hrun, hu, hack, hidle hs, fun he => ?_, settleRead_txn_congr o (by simp), by simp⟩
  have hone : (e.take 1).length = 1 := List.length_take_of_le (List.length_pos_iff.2 he)
  have hreplies : Replies t.par t.tpl.stop (e.take 1).length := hone.symm ▸ (ht.frame.built hs).replies_stop
  exact (congrArg CmdEngine.outstanding (settleRead_ce o _)).trans
    (outstanding_tripped (s := t.setPhase .epilog) _ _ _ _ hreplies)

variable {i : Instr} {x : Transaction}

/-- An operation whose first attempt is its last. -/
theorem exec_concluded {budget : Nat} {finish : PhaseOutcome → Result} (hs : s.Ready)
    (hop : operationOf i s = some (.running
      ((attempts (budget + 1) (s.setTxn x)).andThen fun o t => .done (finish o) t)))
    (hbody : (body ((s.setTxn x).setAttempt 1)).run = .done o t)
    (ht : Progress ((s.setTxn x).setAttempt 1) t (true :: sends) (e :: receives) l) (ho : o = .nack → budget = 0) :
    ∃ u, exec i s = .next u ∧ OpDone s u (finish o) 1 (l ++ epilogCalls s.par s.tpl 1 (e.take 1)) ∧
      u.env = { s.env with sends := sends, receives := receives } ∧ Concluded t o e u := by
  obtain ⟨u, honce, hu, hconcluded⟩ := attemptOnce_concluded (s := (s.setTxn x).setAttempt 1) hs.built hbody ht
  have hattempts : (attempts (budget + 1) (s.setTxn x)).run = .done o u :=
    attemptsFuel_of_end honce (fun hnack => by rw [hu.attempt, ho hnack]; rfl) _
  have hframe : BusFrame (s.setTxn x) u := busFrame_closed.trans (.setAttempt _ 1) hu.frame
  refine ⟨(u.setPhase .idle).respond (finish o), ?_, hframe.opDone hs.1 hu.attempt hu.calls _, hu.env,
    hconcluded.responded _⟩
  rw [exec_of_operation hop, Operation.outcome_running, Proc.run_andThen_of_done hattempts, Proc.run_done,
    Run.outcome_done]

/-- A `read`, `write` or `exchange` whose first attempt is acknowledged. -/
theorem exec_acked {d : Bytes} (hs : s.Ready) (hop : operationOf i s = some (.running (run (s.setTxn x))))
    (hbody : (body ((s.setTxn x).setAttempt 1)).run = .done (.acked d) t)
    (ht : Progress ((s.setTxn x).setAttempt 1) t (true :: sends) (e :: receives) l) :
    ∃ u, exec i s = .next u ∧
      OpDone s u (resultOf x.op (.acked d)) 1 (l ++ epilogCalls s.par s.tpl 1 (e.take 1)) ∧
      u.env = { s.env with sends := sends, receives := receives } ∧ Concluded t (.acked d) e u :=
  exec_concluded (budget := 2) (finish := resultOf x.op) hs hop hbody ht nofun

end Conclusion

/-- The epilog of a transaction that read `d` keeps what its body left. -/
theorem Concluded.cleanEnd_of_readIn {b : State} {n : Nat} {d e : Bytes} (hu : Concluded t (.acked d) e u)
    (ht : ReadIn b n d t) (hb : b.ce = s.ce) : CleanEnd s u e :=
  ⟨hu.ackBit.trans ht.ackBit, hu.idle,
    fun he => ((hu.outstanding he).trans ht.outstanding).trans (congrArg CmdEngine.outstanding hb)⟩

end Answered

/-! ### The four bus operations (R191 to R194, R197) -/

theorem State.Ready.registersOk {s : State} (h : s.Ready) : s.RegistersOk := by
  obtain ⟨-, -, hinv⟩ := h
  obtain ⟨hregs, -⟩ := (State.inv_iff s).1 hinv
  exact hregs

/-- The answers to come are those of `s` without the ones used. -/
theorem answersUsed_of_env {s t : State} {used sends : List Bool} {used' receives : List Bytes}
    (h : t.env = { s.env with sends := sends, receives := receives }) (hsends : used ++ sends = s.env.sends)
    (hreceives : used' ++ receives = s.env.receives) : AnswersUsed used used' s t := by
  rw [AnswersUsed, h, hsends, hreceives]

theorem replicate_append_cons {α : Type} (n : Nat) (a : α) (l : List α) :
    List.replicate n a ++ a :: l = a :: (List.replicate n a ++ l) := by
  rw [← List.cons_append, ← List.replicate_succ, List.replicate_succ', List.append_assoc, List.singleton_append]

/-- The transaction registers `write` writes (R192). -/
def writeTxn (a : Nat) (out : Bytes) (x : Transaction) : Transaction :=
  { x with op := .write, abW := addressByte a false, out := out }

/-- The transaction registers `read` writes (R191). -/
def readTxn (a n : Nat) (x : Transaction) : Transaction :=
  { x with op := .read, abR := addressByte a true, rlen := n }

/-- Settles O37: the body is a prolog and a write phase, and every byte is acknowledged. -/
theorem writeCompletes : Obligations.WriteCompletes := by
  rintro s a out p acks e ⟨hs, ha, hout, hlength, hacks, ⟨sends, hsends⟩, receives, hreceives⟩
  obtain ⟨hfree, hconf, -⟩ := id hs
  have hop : writeOp a out s = .running (run (s.setTxn (writeTxn a out s.txn))) :=
    writeOp_of_valid hfree (validateWrite_eq_none_iff.2 ⟨ha, hout, hconf⟩)
  have hsends' : s.env.sends = true :: (List.replicate out.length true ++ true :: sends) := by
    rw [← hsends, replicate_append_cons]; rfl
  have hreceives' : s.env.receives = [p] :: (acks.map (fun b => [b]) ++ e :: receives) := by simp [← hreceives]
  obtain ⟨t, hbody, hcalls⟩ := body_write_progresses (s := (s.setTxn (writeTxn a out s.txn)).setAttempt 1) rfl
    hlength hacks hsends' hreceives'
  obtain ⟨ht, hack⟩ := (Proc.ensures_of_run_done hbody).1 (body_write_answered rfl hs.built) nofun
  obtain ⟨u, hexec, hdone, henv, hu⟩ := exec_acked (i := .write a out) hs (congrArg some hop) hbody hcalls
  have hclean : CleanEnd s u e :=
    ⟨hu.ackBit.trans hack, hu.idle, fun he => (hu.outstanding he).trans ht.outstanding⟩
  exact ⟨u, hexec, hdone, hclean, hu.txn.trans ht.txn, hu.chunkCache.trans ht.chunkCache,
    answersUsed_of_env henv hsends hreceives⟩

/-- The chunks of a read hold its bytes, and none is empty. -/
theorem chunks_full {c : Int} {n : Nat} {chunks : List Bytes} (hc : 1 ≤ c) (hn : 1 ≤ n)
    (h : chunks.map List.length = chunkSizes c.toNat n) :
    chunks.flatten.length = n ∧ ∀ r ∈ chunks, 1 ≤ r.length := by
  obtain ⟨hsum, hpos⟩ := chunkSizes_sum_pos (c := c.toNat) (by omega) hn
  rw [← h] at hsum hpos
  exact ⟨by rw [List.length_flatten, hsum], List.forall_mem_map.1 hpos⟩

/-- However a read is cut into chunks, it sends the buffer of one last chunk (R146). -/
theorem State.Built.txBytes_readCalls {s : State} (hs : s.Built) {n attempt : Nat} {chunks : List Bytes}
    (hsize : 1 ≤ s.chunkSize) (hn : 1 ≤ n) (hchunks : chunks.map List.length = chunkSizes s.chunkSize.toNat n) :
    (readCalls s.par s.tpl attempt chunks).flatMap CallRecord.txBytes = s.tpl.chunkLast n := by
  obtain ⟨htotal, hpos⟩ := chunks_full hsize hn hchunks
  have hne : chunks ≠ [] := by
    rintro rfl
    rw [← htotal] at hn
    exact absurd hn (by decide)
  rw [hs.tpl, flatMap_txBytes_readCalls s.par hne hpos, htotal, buildTemplates_chunkLast]

/-- A read that is answered throughout. -/
theorem exec_read_done {s : State} {a n : Nat} {p : Byte} {chunks : List Bytes} {e : Bytes}
    (h : ReadScript s a n p chunks e) : ∃ t, exec (.read a n) s = .next t ∧ ReadDone s t a n p chunks e := by
  obtain ⟨hs, ha, hn, hsize, hchunks, hack, ⟨sends, hsends⟩, receives, hreceives⟩ := h
  obtain ⟨hfree, hconf, -⟩ := id hs
  have hop : readOp a n s = .running (run (s.setTxn (readTxn a n s.txn))) :=
    readOp_of_valid hfree (validateRead_eq_none_iff.2 ⟨ha, hn, hconf⟩) hsize
  have hsends' : s.env.sends = true :: (List.replicate chunks.length true ++ true :: sends) := by
    rw [← hsends, replicate_append_cons]; rfl
  have hreceives' : s.env.receives = [p] :: (chunks ++ e :: receives) := by simp [← hreceives]
  have hregs : ((s.setTxn (readTxn a n s.txn)).setAttempt 1).RegistersOk := hs.registersOk.setAttempt (by decide)
  obtain ⟨t, hbody, hcalls⟩ := body_read_progresses (s := (s.setTxn (readTxn a n s.txn)).setAttempt 1) rfl hregs hsize
    hn hchunks (hack p List.mem_cons_self) hsends' hreceives'
  have ht := (Proc.ensures_of_run_done hbody).1 (body_read_ackedRead rfl hs.built hregs hsize) _ rfl
  obtain ⟨u, hexec, hdone, henv, hu⟩ := exec_acked (i := .read a n) hs (congrArg some hop) hbody hcalls
  exact ⟨u, hexec, hdone, hu.cleanEnd_of_readIn ht rfl, hu.txn.trans ht.txn, hu.chunkCache.trans ht.chunkCache,
    answersUsed_of_env henv hsends hreceives⟩

/-- Settles O39: the body is an acknowledged prolog and a read phase whose chunks come in full, and the buffers of the
chunks join to that of one last chunk. -/
theorem readCompletes : Obligations.ReadCompletes := by
  intro s a n p chunks e hscript
  obtain ⟨t, hexec, hdone⟩ := exec_read_done hscript
  obtain ⟨hs, -, hn, hsize, hchunks, -⟩ := hscript
  obtain ⟨htotal, -⟩ := chunks_full hsize hn hchunks
  obtain ⟨⟨-, hcalls, -⟩, -⟩ := id hdone
  refine ⟨t, hexec, hdone, htotal, ?_⟩
  have hread := hs.built.txBytes_readCalls (attempt := 1) hsize hn hchunks
  rw [State.txStream, hcalls]
  simp only [List.flatMap_append, prologCalls, epilogCalls, flatMap_txBytes_roundTripCalls, hread, State.txStream,
    Templates.chunkLast, List.append_assoc]

/-- Settles O40: the body is two prologs, a write phase and a read phase, the first three of which leave the registers
of the last alone. -/
theorem exchangeCompletes : Obligations.ExchangeCompletes := by
  rintro s a out n p acks q chunks e
    ⟨hs, ha, hout, hn, hmax, hsize, hlength, hchunks, hacks, ⟨sends, hsends⟩, receives, hreceives⟩
  obtain ⟨hfree, hconf, -⟩ := id hs
  have hop : exchangeOp a out n s = .running (run (s.setTxn (exchangeTxn a out n s.txn))) :=
    exchangeOp_of_valid hfree (validateExchange_eq_none_iff.2 ⟨ha, hout, hn, hmax, hconf⟩) hsize
  have hsends' : s.env.sends =
      true :: (List.replicate out.length true ++ true :: (List.replicate chunks.length true ++ true :: sends)) := by
    simp only [← hsends, replicate_append_cons, List.replicate_succ, List.replicate_add, List.cons_append,
      List.append_assoc]
  have hreceives' : s.env.receives = [p] :: (acks.map (fun b => [b]) ++ [q] :: (chunks ++ e :: receives)) := by
    simp [← hreceives]
  have hregs : ((s.setTxn (exchangeTxn a out n s.txn)).setAttempt 1).RegistersOk :=
    hs.registersOk.setAttempt (by decide)
  obtain ⟨t, hbody, hcalls⟩ := body_exchange_progresses (s := (s.setTxn (exchangeTxn a out n s.txn)).setAttempt 1) rfl
    hregs hsize hn hlength hchunks hacks hsends' hreceives'
  have ht := (Proc.ensures_of_run_done hbody).1 (body_exchange_ackedRead rfl hs.built hregs hsize) _ rfl
  obtain ⟨u, hexec, hdone, henv, hu⟩ := exec_acked (i := .exchange a out n) hs (congrArg some hop) hbody hcalls
  obtain ⟨htotal, -⟩ := chunks_full hsize hn hchunks
  simp only [← List.append_assoc] at hdone
  exact ⟨u, hexec, ⟨hdone, hu.cleanEnd_of_readIn ht rfl, hu.txn.trans ht.txn, hu.chunkCache.trans ht.chunkCache,
    answersUsed_of_env henv hsends hreceives⟩, htotal⟩

/-- What comes of the outcome of a poll answered by `p`: its result, the flag, and `RBUF`. -/
theorem pollOutcome_spec (p : Byte) (s : State) :
    pollOutcome p ≠ .transport ∧ pollResultOf (pollOutcome p) = .ok (.bool (!ackBitOf p)) ∧
      decide (pollOutcome p = .nack) = ackBitOf p ∧
      (settleRead (pollOutcome p) s).txn = { s.txn with rbuf := if ackBitOf p then [] else s.txn.rbuf } := by
  unfold pollOutcome
  cases ackBitOf p with
  | false => exact ⟨nofun, rfl, rfl, rfl⟩
  | true => exact ⟨nofun, rfl, rfl, rfl⟩

theorem pollTxn_rbuf (pollRw : Bool) (a : Nat) (x : Transaction) : (pollTxn pollRw a x).rbuf = x.rbuf := by
  cases pollRw <;> rfl

/-- Settles O42: the body is one prolog, and a refusal of it is no reason for another attempt. -/
theorem pollAnswersPresence : Obligations.PollAnswersPresence := by
  rintro s a p e hs ha ⟨⟨sends, hsends⟩, receives, hreceives⟩
  obtain ⟨hfree, hconf, -⟩ := id hs
  have hop : pollOp a s = .running (runPoll (s.setTxn (pollTxn s.par.pollRw a s.txn))) :=
    pollOp_of_valid hfree (validatePoll_eq_none_iff.2 ⟨ha, hconf⟩)
  have hab : firstAddressByte ((s.setTxn (pollTxn s.par.pollRw a s.txn)).setAttempt 1) = addressByte a s.par.pollRw :=
    firstAddressByte_poll a s
  obtain ⟨t, hbody, hcalls⟩ := body_poll_progresses (s := (s.setTxn (pollTxn s.par.pollRw a s.txn)).setAttempt 1)
    (pollTxn_op _ _ _) hsends.symm hreceives.symm
  obtain ⟨hreplied, hresult, hflag, hrbuf⟩ := pollOutcome_spec p t
  obtain ⟨ht, hack⟩ :=
    (Proc.ensures_of_run_done hbody).1 (body_poll_answered (pollTxn_op _ _ _) hs.built) hreplied
  obtain ⟨u, hexec, hdone, henv, hu⟩ := exec_concluded (i := .poll a) (budget := 0) (finish := pollResultOf) hs
    (congrArg some hop) hbody hcalls fun _ => rfl
  rw [hresult, hab] at hdone
  have htxn : u.txn = { pollTxn s.par.pollRw a s.txn with rbuf := if ackBitOf p then [] else s.txn.rbuf } := by
    rw [hu.txn, hrbuf, ht.txn, State.setAttempt_txn, State.setTxn_txn, pollTxn_rbuf]
  exact ⟨u, hexec, hdone, (hu.ackBit.trans hack).trans hflag, hu.idle,
    fun he => (hu.outstanding he).trans ht.outstanding, htxn, hu.chunkCache.trans ht.chunkCache,
    answersUsed_of_env henv hsends hreceives⟩

end Sys2Proof.Machine
end

section
/-! PROOFS. The management family (spec/43_management.md): `configure` (R220), `terminate` (R221), `getSlave` (R222),
`flush` (R223), and the two frequencies (R224, R225). -/

namespace Sys2Proof.Machine

/-! ### How a management operation ends -/

/-- An operation on a free engine whose procedure returns delivers its result; no procedure of this family writes
`PHASE`. -/
theorem exec_of_done {i : Instr} {s t : State} {p : Proc Result} {r : Result}
    (ho : operationOf i s = some (whenFree s (.running p))) (hs : s.free) (hrun : p.run = .done r t)
    (hphase : t.phase = s.phase) : exec i s = .next (t.respond r) := by
  obtain ⟨hidle, -⟩ := id hs
  have hrest : t.setPhase .idle = t := by rw [← hidle, ← hphase]; rfl
  rw [exec_of_operation ho, whenFree_of_free hs, Operation.outcome_running, hrun, Run.outcome_done, hrest]

/-- Settles O29: both end at once with the value they read. -/
theorem frequenciesAreRead : Obligations.FrequenciesAreRead :=
  fun _ hs => ⟨exec_of_done rfl hs rfl rfl, exec_of_done rfl hs rfl rfl⟩

/-! ### `configure` (R220) -/

/-- `f_req` with `FREQ_SCALE` written out. -/
theorem scaledFreq_eq (f : Freq) : scaledFreq f = f * 3 / 2 := (mul_div_assoc f 3 2).symm

/-- The idle pin set that `configure` sends as output levels puts both lines high (R95). -/
theorem CmdEngine.pinSet_idle {P : Params} (hP : P.Ok) (c : CmdEngine) :
    c.pinSet P.pins P.pins.idleLevel P.pins.direction = { c with
      scl := true, sda := true, pinValue := P.pins.idleLevel, pinDir := P.pins.direction
      wire := c.wire ++ [.pins true true] } := by
  obtain ⟨hpins, -⟩ := P.ok_iff.1 hP
  obtain ⟨hidle, -⟩ := pinSet_levels hpins
  exact c.pinSet_eq hidle

/-- After the four calls of `configure` (R220, D16): `connect` reported `tx` and `rx`, the drive-zero answer was `z`,
and `cs` and `zs` are the answers still to come. -/
def setUp (clock : Freq) (tx rx : Nat) (cs : List (Option (Nat × Nat))) (z : Bool) (zs : List Bool) (s : State) :
    State :=
  { s with
    ce := s.ce.pinSet s.par.pins s.par.pins.idleLevel s.par.pins.direction
    env := { s.env with connects := cs, driveZero := zs }
    calls := s.calls ++
      [⟨.connect clock s.par.pins.idleLevel s.par.pins.direction, s.phase, s.attempt, .connected tx rx⟩,
       ⟨.setOutputLevels s.par.pins.idleLevel s.par.pins.direction, s.phase, s.attempt, .returned⟩,
       ⟨.setClockPhaseMode true, s.phase, s.attempt, .returned⟩,
       ⟨.setDriveZeroMode s.par.driveZeroMask, s.phase, s.attempt, if z then .ok else .unsupported⟩] }

/-- What `configure` does when the drive-zero answer `z` is known (R220). -/
def configureEnd (f : Freq) (required : Bool) (tx rx : Nat) (z : Bool) (s : State) : Proc Result :=
  if !z && required then
    (callClose s).andThen fun _ t => .done (.err .configurationError) (t.setConfigured false)
  else
    .done (.ok (.freq (achievedClock (scaledFreq f) s.par.ceClock)))
      (establish (achievedClock (scaledFreq f) s.par.ceClock) tx rx s)

section Connected

variable {s : State} {f : Freq} {required z : Bool} {tx rx : Nat} {cs : List (Option (Nat × Nat))} {zs : List Bool}

theorem configureRun_connected (hc : s.env.connects = some (tx, rx) :: cs) (hd : s.env.driveZero = z :: zs) :
    (configureRun f required s).run =
      (configureEnd f required tx rx z (setUp (scaledFreq f) tx rx cs z zs s)).run := by
  have hmode (t : State) (ht : t.env.driveZero = s.env.driveZero) := callSetDriveZeroMode_cons (ht.trans hd)
  refine (Proc.run_andThen_of_done (callConnect_ok hc) _).trans ?_
  refine (Proc.run_andThen_of_done (callSetOutputLevels_run _) _).trans ?_
  refine (Proc.run_andThen_of_done (callSetClockPhaseMode_run _) _).trans ?_
  refine (Proc.run_andThen_of_done (hmode _ (by rfl)) _).trans ?_
  refine congrArg (fun t => (configureEnd f required tx rx z t).run) ?_
  cases z <;> simp [setUp, State.record, State.setEnv, State.setCe]

theorem configureRun_accepted (hc : s.env.connects = some (tx, rx) :: cs) (hd : s.env.driveZero = z :: zs)
    (hz : z = true ∨ required = false) :
    (configureRun f required s).run = .done (.ok (.freq (achievedClock (scaledFreq f) s.par.ceClock)))
      (establish (achievedClock (scaledFreq f) s.par.ceClock) tx rx (setUp (scaledFreq f) tx rx cs z zs s)) := by
  have haccepted : ¬(!z && required) = true := by rcases hz with rfl | rfl <;> simp
  rw [configureRun_connected hc hd, configureEnd, if_neg haccepted]
  rfl

theorem configureRun_refused (hc : s.env.connects = some (tx, rx) :: cs) (hd : s.env.driveZero = false :: zs) :
    (configureRun f true s).run = .done (.err .configurationError)
      ((((setUp (scaledFreq f) tx rx cs false zs s).setCe
        (setUp (scaledFreq f) tx rx cs false zs s).ce.disconnected).record .close .returned).setConfigured false) := by
  rw [configureRun_connected hc hd]
  exact Proc.run_andThen_of_done (callClose_run _) _

end Connected

/-- Settles O22: the four calls return, and the engine is established. -/
theorem configureEstablishes : Obligations.ConfigureEstablishes := by
  intro s f required z tx rx cs zs hP hs hc hd hz
  obtain ⟨hidle, -⟩ := id hs
  rw [exec_of_done rfl hs (configureRun_accepted hc hd hz) rfl, setUp, scaledFreq_eq, CmdEngine.pinSet_idle hP, hidle]
  rfl

/-- Settles O23: a failed `connect` ends the procedure, and a refused drive-zero mode ends it after `close`. -/
theorem configureFailuresUnconfigure : Obligations.ConfigureFailuresUnconfigure := by
  intro s f hs
  obtain ⟨hidle, -⟩ := id hs
  refine ⟨fun required cs hc => ?_, fun tx rx cs zs hP hc hd => ?_⟩
  · rw [exec_of_done (i := .configure f required) rfl hs (Proc.run_andThen_of_done (callConnect_failed hc) _) rfl,
      scaledFreq_eq, ← hidle]
    rfl
  · rw [exec_of_done rfl hs (configureRun_refused hc hd) rfl, setUp, scaledFreq_eq, CmdEngine.pinSet_idle hP, ← hidle]
    simp [State.record, State.setCe, State.setConfigured, State.respond, CmdEngine.disconnected]

/-! ### `terminate` (R221) -/

theorem terminateRun_configured {s : State} (h : s.configured = true) :
    (terminateRun s).run = .done (.ok .none)
      ((((((s.setCe s.ce.disconnected).record .close .returned).setConfigured false).setCache []).setBus
        { s.bus with freq := Config.freqAfterTerminate s.freeDraws }).drawFreq) := by
  rw [terminateRun, if_pos h]
  exact Proc.run_andThen_of_done (callClose_run s) _

theorem terminateRun_unconfigured {s : State} (h : s.configured = false) :
    (terminateRun s).run = .done (.ok .none) s := by
  rw [terminateRun, if_neg (Bool.eq_false_iff.1 h), Proc.run_done]

/-- Settles O24: one `close` that returns, or nothing. -/
theorem terminateUnconfigures : Obligations.TerminateUnconfigures := by
  intro s hs
  obtain ⟨hidle, -⟩ := id hs
  refine ⟨fun hconf => ⟨Config.freqAfterTerminate s.freeDraws, ?_⟩, fun hconf => ?_⟩
  · rw [exec_of_done rfl hs (terminateRun_configured hconf) rfl, ← hidle]
    rfl
  · exact exec_of_done rfl hs (terminateRun_unconfigured hconf) rfl

/-! ### `getSlave` (R222) -/

/-- A handle of a well-formed store is answered by its address. -/
theorem State.SlavesOk.base_eq {s : State} (h : s.SlavesOk) {a : Nat} {old : Handle}
    (found : mapGet a s.slaves = some old) : old.base = a := by
  obtain ⟨-, hall⟩ := h
  obtain ⟨hbase, -⟩ := hall _ (mem_of_mapGet found)
  exact hbase

section GetSlave

variable {a : Nat} {s : State}

/-- Both checks of `getSlave` fail with the same error. -/
theorem getSlaveChecks_fail (h : Config.addrMax < a ∨ s.configured = false) :
    firstError [addressCheck a, configuredCheck s] = some .configurationError := by
  by_cases ha : a ≤ Config.addrMax
  · have hmode : (configuredCheck s).1 = false := h.resolve_left (Nat.not_lt.2 ha)
    rw [firstError_of_pass (decide_eq_true ha), firstError_of_fail hmode]
    rfl
  · rw [firstError_of_fail (decide_eq_false ha)]
    rfl

/-- The checks of `getSlave` are those of `poll` (R190). -/
theorem getSlaveChecks_pass (ha : a ≤ Config.addrMax) (hc : s.configured = true) :
    firstError [addressCheck a, configuredCheck s] = none :=
  validatePoll_eq_none_iff.2 ⟨ha, hc⟩

theorem exec_getSlave_invalid (hs : s.free) (h : Config.addrMax < a ∨ s.configured = false) :
    exec (.getSlave a) s = .next (s.respond (.err .configurationError)) := by
  refine exec_of_done rfl hs ?_ rfl
  rw [getSlaveRun, getSlaveChecks_fail h, Proc.run_done]

theorem exec_getSlave_found (hs : s.free) (ha : a ≤ Config.addrMax) (hc : s.configured = true) {old : Handle}
    (found : mapGet a s.slaves = some old) (hbase : old.base = a) :
    exec (.getSlave a) s = .next (s.respond (.ok (.handle a))) := by
  refine exec_of_done rfl hs ?_ rfl
  rw [getSlaveRun, getSlaveChecks_pass ha hc, found]
  simp [hbase]

theorem exec_getSlave_fresh (hs : s.free) (ha : a ≤ Config.addrMax) (hc : s.configured = true)
    (hnone : mapGet a s.slaves = none) :
    exec (.getSlave a) s =
      .next ((s.setSlaves (mapPut a (Handle.fresh a) s.slaves)).respond (.ok (.handle a))) := by
  refine exec_of_done rfl hs ?_ rfl
  rw [getSlaveRun, getSlaveChecks_pass ha hc, hnone, Proc.run_done]

end GetSlave

/-- Settles O26: the checks, then the handle found or the fresh one put. -/
theorem getSlaveFindsOrCreates : Obligations.GetSlaveFindsOrCreates := by
  intro s a hs hslaves
  refine ⟨exec_getSlave_invalid hs, fun ha hc => ?_⟩
  obtain ⟨hwf, -⟩ := id hslaves
  cases hg : mapGet a s.slaves with
  | some old =>
    exact ⟨s.slaves, exec_getSlave_found hs ha hc hg (hslaves.base_eq hg), hwf, fun _ _ => rfl, nofun, fun _ _ => rfl⟩
  | none =>
    exact ⟨mapPut a (Handle.fresh a) s.slaves, exec_getSlave_fresh hs ha hc hg, mapPut_wf a _ hwf, nofun,
      fun _ => mapGet_mapPut_same a _ _, fun b hb => mapGet_mapPut_other hb _ _⟩

/-- After a valid `getSlave` its address has a handle, whose base is the address. -/
theorem exec_getSlave_leaves_handle {a : Nat} {s t : State} (hslaves : s.SlavesOk) (ha : a ≤ Config.addrMax)
    (hc : s.configured = true) (h : exec (.getSlave a) s = .next t) :
    ∃ old, mapGet a t.slaves = some old ∧ old.base = a := by
  obtain ⟨hs, -⟩ := whenFree_next (k := .running (getSlaveRun a s)) h
  cases hg : mapGet a s.slaves with
  | some old =>
    have hbase := hslaves.base_eq hg
    cases (exec_getSlave_found hs ha hc hg hbase).symm.trans h
    exact ⟨old, hg, hbase⟩
  | none =>
    cases (exec_getSlave_fresh hs ha hc hg).symm.trans h
    exact ⟨Handle.fresh a, mapGet_mapPut_same a _ _, rfl⟩

/-- Settles O27: the first `getSlave` leaves a handle of base `a`; the operation in between keeps every handle with its
base (`HandlesKept`) and the mode (`ConfigurationWrites`). -/
theorem getSlaveIsIdempotent : Obligations.GetSlaveIsIdempotent := by
  intro s t u a i hslaves ha hc hget hterminate hconfigure hi hu
  obtain ⟨-, hwritesGet, -, -⟩ := exec_namedWrites hget
  obtain ⟨-, hwrites, hkept, -⟩ := exec_namedWrites hi
  obtain ⟨-, -, -, -, -, hmodeGet, -⟩ := hwritesGet fun _ _ => nofun
  obtain ⟨-, -, -, -, -, hmode, -⟩ := hwrites hconfigure
  obtain ⟨-, hct⟩ := hmodeGet nofun
  obtain ⟨-, hcu⟩ := hmode hterminate
  obtain ⟨old, hold, hbaseOld⟩ := exec_getSlave_leaves_handle hslaves ha hc hget
  obtain ⟨new, hnew, hbaseNew, -, -⟩ := hkept a old hold
  exact exec_getSlave_found hu ha (hcu.trans (hct.trans hc)) hnew (hbaseNew.trans hbaseOld)

/-! ### `flush` (R223) -/

/-- The `FLUSH` unit of the templates, accepted, releases the reply bytes (R74, R139). -/
theorem CmdEngine.execute_flush {P : Params} (hP : P.Ok) (c : CmdEngine) :
    c.execute P (buildTemplates P).flush = c.flush := by
  obtain ⟨-, henc, -⟩ := P.ok_iff.1 hP
  have hstop : unitsBytes P [.flush] ≠ unitsBytes P (stopUnits P) :=
    fun h => ne_stopUnits (u := .flush) nofun [] (unitsBytes_injective henc h)
  rw [buildTemplates_flush, CmdEngine.execute, if_neg hstop, unitsOf_unitsBytes henc]
  rfl

theorem flushRun_unconfigured {s : State} (h : s.configured = false) :
    (flushRun s).run = .done (.err .configurationError) s := by
  have hmode : firstError [configuredCheck s] = some .configurationError := firstError_of_fail h
  rw [flushRun, hmode, Proc.run_done]

theorem flushRun_sent {s : State} {ok : Bool} {rest : List Bool} (hc : s.configured = true)
    (h : s.env.sends = ok :: rest) :
    (flushRun s).run = .done (if ok then .ok .none else .err .transportError) (sent s.tpl.flush ok rest s) := by
  rw [flushRun, configuredCheck_eq_none_iff.2 hc]
  refine (Proc.run_andThen_of_done (memWrite_cons _ h) _).trans ?_
  cases ok <;> rfl

/-- Settles O28: the mode is checked, then one buffer is sent, which an accepting Command Engine executes as `FLUSH`. -/
theorem flushSendsOneUnit : Obligations.FlushSendsOneUnit := by
  intro s hs
  obtain ⟨hidle, -⟩ := id hs
  refine ⟨fun hc => exec_of_done rfl hs (flushRun_unconfigured hc) rfl, fun ok rest hc hsends => ?_⟩
  refine ⟨(sent s.tpl.flush ok rest s).ce, ?_, ?_⟩
  · rw [exec_of_done rfl hs (flushRun_sent hc hsends) rfl, ← hidle]
    cases ok <;> rfl
  · rintro rfl hP hconfig
    obtain ⟨-, htpl, -⟩ := hconfig hc
    show s.ce.execute s.par s.tpl.flush = s.ce.flush
    rw [htpl, CmdEngine.execute_flush hP]

end Sys2Proof.Machine
end

section
/-! PROOFS. The slave handle family (spec/44_slave_handle.md): the register format (R241), the offset (R242), the
operations that forward to the Bus Master (R244 to R250), and what these complete as. -/

namespace Sys2Proof.Machine

/-! ### The operation on a handle that `getSlave` returned -/

theorem whenFree_whenFree (s : State) (o : Operation) : whenFree s (whenFree s o) = whenFree s o := by
  by_cases hs : s.free
  · rw [whenFree_of_free hs]
  · rw [whenFree_of_busy hs, whenFree_of_busy hs]

theorem withPrefix_of_some {h : Handle} {r : Nat} {p : Bytes} (hp : regEnc h r = some p) (k : Bytes → Operation) :
    withPrefix h r k = k p := by
  rw [withPrefix, hp]

/-- An encoded register address has the width's bytes (R243). -/
theorem regEnc_length {h : Handle} {r : Nat} {p : Bytes} (hp : regEnc h r = some p) : p.length = h.regWidth := by
  by_cases hr : r < 2 ^ (8 * h.regWidth)
  · obtain ⟨q, hq, hlength, -⟩ := registerPrefixHoldsTheAddress h r hr
    rw [Option.some.inj (hp.symm.trans hq), hlength]
  · rw [regEnc_of_ge (Nat.not_lt.1 hr)] at hp
    cases hp

theorem mem_regWidths_iff (w : Nat) : w ∈ Config.regWidths ↔ w = 1 ∨ w = 2 ∨ w = 4 := by simp [Config.regWidths]

section Found

variable {s : State} {b : Nat} {h : Handle} (hb : mapGet b s.slaves = some h)
include hb

/-- On a handle in `SLAVES` the check of R71 alone stands before the operation. -/
theorem withHandle_of_found (k : Handle → Operation) : withHandle b s k = whenFree s (k h) := by
  rw [withHandle, hb]

/-- An operation on the handle that is one of the Bus Master's, which checks R71 itself, runs as that one. -/
theorem withHandle_forwards {k : Handle → Operation} {o : Operation} (hk : k h = whenFree s o) :
    withHandle b s k = k h := by
  rw [withHandle_of_found hb, hk, whenFree_whenFree]

/-- An operation on the handle that ends at once without writing `PHASE` delivers its result. -/
theorem exec_of_handle_done {i : Instr} {k : Handle → Operation} {r : Result} {t : State}
    (ho : operationOf i s = some (withHandle b s k)) (hs : s.free) (hk : k h = endWith r t)
    (hphase : t.phase = s.phase) : exec i s = .next (t.respond r) := by
  rw [withHandle_of_found hb, hk] at ho
  exact exec_of_done ho hs rfl hphase

/-! ### The forwarding operations (R244 to R250) -/

theorem exec_sRead (n : Nat) : exec (.sRead b n) s = exec (.read h.ea n) s :=
  congrArg Operation.outcome (withHandle_forwards hb rfl)

theorem exec_sWrite (out : Bytes) : exec (.sWrite b out) s = exec (.write h.ea out) s :=
  congrArg Operation.outcome (withHandle_forwards hb rfl)

theorem exec_sExchange (out : Bytes) (n : Nat) : exec (.sExchange b out n) s = exec (.exchange h.ea out n) s :=
  congrArg Operation.outcome (withHandle_forwards hb rfl)

theorem exec_sPoll : exec (.sPoll b) s = exec (.poll h.ea) s :=
  congrArg Operation.outcome (withHandle_forwards hb rfl)

theorem exec_sFlush : exec (.sFlush b) s = exec .flushOp s :=
  congrArg Operation.outcome (withHandle_forwards hb rfl)

theorem exec_sReadFrom {r : Nat} {p : Bytes} (hp : regEnc h r = some p) (n : Nat) :
    exec (.sReadFrom b r n) s = exec (.exchange h.ea p n) s := by
  have hprefix := withPrefix_of_some hp fun p => exchangeOp h.ea p n s
  exact congrArg Operation.outcome ((withHandle_forwards hb hprefix).trans hprefix)

theorem exec_sWriteTo {r : Nat} {p : Bytes} (hp : regEnc h r = some p) (out : Bytes) :
    exec (.sWriteTo b r out) s = exec (.write h.ea (p ++ out)) s := by
  have hprefix := withPrefix_of_some hp fun p => writeOp h.ea (p ++ out) s
  exact congrArg Operation.outcome ((withHandle_forwards hb hprefix).trans hprefix)

end Found

/-! ### The statements -/

/-- Settles O38: both forms are a write to the effective address, which completes (R192). -/
theorem handleWritesComplete : Obligations.HandleWritesComplete := by
  intro s b h p acks e hb
  refine ⟨fun out hscript => ?_, fun r pre out hpre hscript => ?_⟩
  · rw [exec_sWrite hb]
    exact writeCompletes s h.ea out p acks e hscript
  · rw [exec_sWriteTo hb hpre]
    exact writeCompletes s h.ea (pre ++ out) p acks e hscript

/-- An exchange that is answered throughout. -/
theorem exec_exchange_done {s : State} {a : Nat} {out : Bytes} {n : Nat} {p : Byte} {acks : Bytes} {q : Byte}
    {chunks : List Bytes} {e : Bytes} (h : ExchangeScript s a out n p acks q chunks e) :
    ∃ t, exec (.exchange a out n) s = .next t ∧ ExchangeDone s t a out n p acks q chunks e := by
  obtain ⟨t, hexec, hdone, -⟩ := exchangeCompletes s a out n p acks q chunks e h
  exact ⟨t, hexec, hdone⟩

/-- Settles O41: the three forms are a read and two exchanges at the effective address, which complete (R191, R193). -/
theorem handleReadsComplete : Obligations.HandleReadsComplete := by
  intro s b h n p q acks chunks e hb
  refine ⟨fun hscript => ?_, fun out hscript => ?_, fun r pre hpre hscript => ?_⟩
  · rw [exec_sRead hb]
    exact exec_read_done hscript
  · rw [exec_sExchange hb]
    exact exec_exchange_done hscript
  · rw [exec_sReadFrom hb hpre]
    exact exec_exchange_done hscript

/-- Settles O43: `poll` is that of the effective address, which a well-formed handle keeps in range (R242), and `flush`
the Bus Master's, whose unit is the built template's. -/
theorem handlePollAndFlushComplete : Obligations.HandlePollAndFlushComplete := by
  intro s b h hb
  refine ⟨fun p e hs hanswers => ?_, fun rest hs hsends => ?_⟩
  · obtain ⟨-, hea, -⟩ := hs.registersOk.handle_ok hb
    rw [exec_sPoll hb]
    exact pollAnswersPresence s h.ea p e hs hea hanswers
  · obtain ⟨hpar, htpl⟩ := hs.built
    obtain ⟨hfree, hconf, -, -, -, hconfig, -⟩ := hs
    have hunit : s.tpl.flush = s.par.enc.flush := congrArg Templates.flush htpl
    obtain ⟨-, hflush⟩ := flushSendsOneUnit s hfree
    obtain ⟨c, hexec, hce⟩ := hflush true rest hconf hsends
    rw [exec_sFlush hb, hexec, hce rfl hpar hconfig, hunit]
    rfl

/-- Settles O30: a legal width puts the handle back with the new format; one byte is the same in both orders. -/
theorem configureRegisterSetsTheFormat : Obligations.ConfigureRegisterSetsTheFormat := by
  intro s b width big h hs hb
  simp only [← mem_regWidths_iff]
  refine ⟨fun hw => ⟨mapPut b { h with regBig := big, regWidth := width } s.slaves, ?_, ?_, ?_⟩, fun hw => ?_,
    fun _ => rfl⟩
  · exact exec_of_handle_done (t := putHandle b { h with regBig := big, regWidth := width } s) hb rfl hs
      (if_pos hw) rfl
  · exact mapGet_mapPut_same b _ _
  · exact fun _ hk => mapGet_mapPut_other hk _ _
  · exact exec_of_handle_done hb rfl hs (if_neg hw) rfl

/-- Settles O31: an offset within reach of the base puts the handle back with it. -/
theorem shiftAddressReplacesTheOffset : Obligations.ShiftAddressReplacesTheOffset := by
  intro s b offset h hs hb
  refine ⟨fun ho => ⟨mapPut b { h with offset := offset } s.slaves, ?_, ?_, ?_⟩, fun ho => ?_⟩
  · exact exec_of_handle_done (t := putHandle b { h with offset := offset } s) hb rfl hs (if_pos ho) rfl
  · exact mapGet_mapPut_same b _ _
  · exact fun _ hk => mapGet_mapPut_other hk _ _
  · exact exec_of_handle_done hb rfl hs (if_neg (Nat.not_le.2 ho)) rfl

/-- Settles O32: each form looks its handle up and goes on as the Bus Master's operation. -/
theorem handleOperationsForward : Obligations.HandleOperationsForward :=
  fun _ _ _ hb => ⟨exec_sRead hb, exec_sWrite hb, exec_sExchange hb, exec_sPoll hb, exec_sFlush hb⟩

/-- The register address `0x0102` encoded in two bytes, in both byte orders (R245). -/
theorem regEnc_two_0x0102 {h : Handle} (hw : h.regWidth = 2) :
    regEnc h 0x0102 = some (if h.regBig then [0x01, 0x02] else [0x02, 0x01]) := by
  rw [regEnc_of_lt (by rw [hw]; decide), hw]
  rfl

/-- Settles O33: the operation goes on with the encoded address, which has as many bytes as the width. -/
theorem registerAccessPrependsThePrefix : Obligations.RegisterAccessPrependsThePrefix := by
  intro s b h r p hb hp
  refine ⟨exec_sReadFrom hb hp, exec_sWriteTo hb hp, ?_, ?_, ?_⟩
  · rintro hw rfl
    rw [← regEnc_length hp] at hw
    exact absurd hw (by decide)
  · rintro hw hbig rfl
    exact exec_sWriteTo hb ((regEnc_two_0x0102 hw).trans (by rw [hbig, if_pos rfl])) [0xAA]
  · rintro hw hlittle rfl
    exact exec_sWriteTo hb ((regEnc_two_0x0102 hw).trans (by rw [hlittle, if_neg nofun])) [0xAA]

end Sys2Proof.Machine
end

section
/-! PROOFS. The exceptions family (spec/60_exceptions.md): how an error kind is raised (R260 to R264), what a bus
operation leaves unchanged (R267), what ends an attempt (R263), and the way back to a clean state (R269). -/

namespace Sys2Proof.Machine

/-! ### The way to a clean state (R269) -/

theorem execAll_cons_of_next {i : Instr} {is : List Instr} {s t : State} (h : exec i s = .next t) :
    execAll (i :: is) s = execAll is t := by
  rw [execAll, h]

theorem execAll_singleton (i : Instr) (s : State) : execAll [i] s = exec i s := by
  rw [execAll]
  cases exec i s <;> rfl

/-- Settles O25: `terminate` discards the reply bytes (O24), and `configure` establishes the rest (O22). -/
theorem terminateThenConfigureIsClean : Obligations.TerminateThenConfigureIsClean := by
  intro s f required z tx rx cs zs hP hs hconf hc hd hz
  obtain ⟨freq, hterminate⟩ := (terminateUnconfigures s hs).1 hconf
  have hconfigure := configureEstablishes { s with
    configured := false
    bus := { s.bus with freq := freq }
    chunkCache := []
    ce := { s.ce with held := [], ready := [] }
    calls := s.calls ++ [⟨.close, .idle, s.attempt, .returned⟩]
    responses := s.responses ++ [.ok .none]
    freeDraws := s.freeDraws + 1 } f required z tx rx cs zs hP hs hc hd hz
  rw [execAll_cons_of_next hterminate, execAll_singleton, hconfigure]
  exact ⟨_, rfl, rfl, rfl, ⟨rfl, rfl⟩, rfl, rfl, rfl⟩

/-! ### The errors an operation can answer (R260 to R264) -/

/-- The error of a validation is that of a check that failed. -/
theorem firstError_kind {Q : ErrKind → Prop} {l : List (Bool × ErrKind)} {k : ErrKind} (h : firstError l = some k)
    (hl : ∀ c ∈ l, c.1 = false → Q c.2) : Q k := by
  induction l with
  | nil => cases h
  | cons c l ih =>
    obtain ⟨hhead, htail⟩ := List.forall_mem_cons.1 hl
    cases hc : c.1 with
    | false =>
      obtain rfl := Option.some.inj ((firstError_of_fail hc).symm.trans h)
      exact hhead hc
    | true => exact ih ((firstError_of_pass hc).symm.trans h) htail

/-- An error of the address, the mode or an empty argument (42_operations.md R190 checks 1, 2, 3 and 5). -/
def ArgumentError (s : State) (k : ErrKind) : Prop := k = .configurationError ∨ k = s.par.errEmpty

/-- `poll`, direct or of a handle. -/
def polls : Instr → Bool
  | .poll _ | .sPoll _ => true
  | _ => false

theorem polls_eq_false_iff (i : Instr) : polls i = false ↔ (∀ a, i ≠ .poll a) ∧ ∀ b, i ≠ .sPoll b := by
  cases i <;> simp [polls]

/-- An `exchange`, or an operation that forwards to it, of more bytes than its bound (R264). -/
def OverExchangeBound (i : Instr) : Prop :=
  ∃ n, 21844 < n ∧ ((∃ a out, i = .exchange a out n) ∨ (∃ b out, i = .sExchange b out n) ∨
    ∃ b r, i = .sReadFrom b r n)

/-- The procedures the bus operation `i` can start in `s`, with what its validation found. -/
inductive BusChecked (i : Instr) (s : State) : Proc Result → Prop where
  | rejected {k : ErrKind} (h : ArgumentError s k ∨ (k = .payloadTooLarge ∧ OverExchangeBound i)) :
      BusChecked i s (.done (.err k) s)
  | transaction (x : Transaction) (hc : s.configured = true) (hi : polls i = false) : BusChecked i s (run (s.setTxn x))
  | poll (x : Transaction) (hc : s.configured = true) (hi : polls i = true) : BusChecked i s (runPoll (s.setTxn x))

theorem validated_runs_of {P : Proc Result → Prop} {s : State} {o : Operation} {e : Option ErrKind}
    (hsome : ∀ k, e = some k → P (.done (.err k) s)) (hnone : e = none → o.Runs P) : (validated e s o).Runs P := by
  cases e with
  | none => exact hnone rfl
  | some k => exact hsome k rfl

section Checked

variable {i : Instr} {s : State}

theorem readOp_checked (hi : polls i = false) (a n : Nat) : (readOp a n s).Runs (BusChecked i s) := by
  refine whenFree_runs (validated_runs_of (fun k hk => .rejected (.inl ?_)) fun hvalid => needsChunks_runs ?_)
  · exact firstError_kind hk (by simp [ArgumentError, addressCheck, lengthCheck, configuredCheck])
  · obtain ⟨-, -, hc⟩ := validateRead_eq_none_iff.1 hvalid
    exact .transaction _ hc hi

theorem writeOp_checked (hi : polls i = false) (a : Nat) (out : Bytes) : (writeOp a out s).Runs (BusChecked i s) := by
  refine whenFree_runs (validated_runs_of (fun k hk => .rejected (.inl ?_)) fun hvalid => ?_)
  · exact firstError_kind hk (by simp [ArgumentError, addressCheck, payloadCheck, configuredCheck])
  · obtain ⟨-, -, hc⟩ := validateWrite_eq_none_iff.1 hvalid
    exact .transaction _ hc hi

theorem exchangeOp_checked (hi : polls i = false) (a : Nat) (out : Bytes) (n : Nat)
    (hbound : 21844 < n → OverExchangeBound i) : (exchangeOp a out n s).Runs (BusChecked i s) := by
  refine whenFree_runs (validated_runs_of (fun k hk => .rejected ?_) fun hvalid => needsChunks_runs ?_)
  · refine firstError_kind (Q := fun k => ArgumentError s k ∨ (k = .payloadTooLarge ∧ OverExchangeBound i)) hk ?_
    simp only [List.forall_mem_cons, List.not_mem_nil, false_implies, implies_true, and_true]
    exact ⟨fun _ => .inl (.inl rfl), fun _ => .inl (.inr rfl), fun _ => .inl (.inr rfl),
      fun hover => .inr ⟨rfl, hbound (Nat.lt_of_not_le (of_decide_eq_false hover))⟩, fun _ => .inl (.inl rfl)⟩
  · obtain ⟨-, -, -, -, hc⟩ := validateExchange_eq_none_iff.1 hvalid
    exact .transaction _ hc hi

theorem pollOp_checked (hi : polls i = true) (a : Nat) : (pollOp a s).Runs (BusChecked i s) := by
  refine whenFree_runs (validated_runs_of (fun k hk => .rejected (.inl ?_)) fun hvalid => ?_)
  · exact firstError_kind hk (by simp [ArgumentError, addressCheck, configuredCheck])
  · obtain ⟨-, hc⟩ := validatePoll_eq_none_iff.1 hvalid
    exact .poll _ hc hi

theorem operationOf_checked (hi : i.isBusOp = true) {o : Operation} (h : operationOf i s = some o) :
    o.Runs (BusChecked i s) := by
  cases i <;> cases hi <;> cases h
  case read a n => exact readOp_checked rfl a n
  case write a out => exact writeOp_checked rfl a out
  case exchange a out n => exact exchangeOp_checked rfl a out n fun hn => ⟨n, hn, .inl ⟨a, out, rfl⟩⟩
  case poll a => exact pollOp_checked rfl a
  case sReadFrom b r n =>
    exact withHandle_runs fun h _ => withPrefix_runs fun p =>
      exchangeOp_checked rfl h.ea p n fun hn => ⟨n, hn, .inr (.inr ⟨b, r, rfl⟩)⟩
  case sWriteTo b r out =>
    exact withHandle_runs fun h _ => withPrefix_runs fun p => writeOp_checked rfl h.ea (p ++ out)
  case sRead b n => exact withHandle_runs fun h _ => readOp_checked rfl h.ea n
  case sWrite b out => exact withHandle_runs fun h _ => writeOp_checked rfl h.ea out
  case sExchange b out n =>
    exact withHandle_runs fun h _ => exchangeOp_checked rfl h.ea out n fun hn =>
      ⟨n, hn, .inr (.inl ⟨b, out, rfl⟩)⟩
  case sPoll b => exact withHandle_runs fun h _ => pollOp_checked rfl h.ea

end Checked

/-! #### The other operations -/

/-- From `s` to `t` the engine made calls, all of them at the `PHASE` of `s`, which it did not write. -/
def AtRest (s t : State) : Prop := t.phase = s.phase ∧ ∃ l, t.calls = s.calls ++ l ∧ ∀ r ∈ l, r.phase = s.phase

theorem AtRest.refl (s : State) : AtRest s s := ⟨rfl, [], (List.append_nil _).symm, nofun⟩

/-- A result that is no error of the bus or of the exchange bound. -/
def ManagementResult (r : Result) : Prop := ∀ k, r = .err k → k = .configurationError ∨ k = .transportError

/-- What a procedure of no transaction comes to: its calls are made at rest, and its errors are of R261 or R262. -/
def Proc.Manages (s : State) (p : Proc Result) : Prop := p.Returns fun r t => AtRest s t ∧ ManagementResult r

theorem managementResult_ok (v : Value) : ManagementResult (.ok v) := nofun

theorem managementResult_configurationError : ManagementResult (.err .configurationError) :=
  fun _ h => .inl (Result.err.inj h).symm

theorem managementResult_transportError : ManagementResult (.err .transportError) :=
  fun _ h => .inr (Result.err.inj h).symm

/-- One call, and nothing after its answer, is made at rest. -/
theorem Proc.call_atRest {α : Type} {s t : State} (h : AtRest s t) (c : Call) (f : Answer → α) :
    (Proc.call c t fun a u => .done (f a) u).Returns fun _ u => AtRest s u := by
  cases hp : perform c t with
  | none => exact (Proc.ensures_of_run_stuck (Proc.run_call_of_none hp _)).2 trivial
  | some r =>
    obtain ⟨-, hu⟩ := perform_frame (a := r.1) (t := r.2) hp
    obtain ⟨hphase, l, hcalls, hl⟩ := h
    refine (Proc.ensures_of_run_done (Proc.run_call_of_some hp _)).2 ⟨?_, l ++ [⟨c, t.phase, t.attempt, r.1⟩], ?_, ?_⟩
    · rw [hu]
      exact hphase
    · rw [hu, hcalls, List.append_assoc]
    · exact List.forall_mem_append.2 ⟨hl, List.forall_mem_singleton.2 hphase⟩

theorem configureRun_manages (f : Freq) (z : Bool) (s : State) : (configureRun f z s).Manages s :=
  (Proc.call_atRest (.refl s) _ _).andThen fun c t ht => by
    cases c with
    | none => exact ⟨ht, managementResult_transportError⟩
    | some caps =>
      refine (Proc.call_atRest ht _ _).andThen fun _ t ht => (Proc.call_atRest ht _ _).andThen fun _ t ht =>
        (Proc.call_atRest ht _ _).andThen fun w t ht => ?_
      split
      · exact (Proc.call_atRest ht _ _).andThen fun _ t ht => ⟨ht, managementResult_configurationError⟩
      · exact ⟨ht, managementResult_ok _⟩

theorem terminateRun_manages (s : State) : (terminateRun s).Manages s := by
  unfold terminateRun
  split
  · exact (Proc.call_atRest (.refl s) _ _).andThen fun _ t ht => ⟨ht, managementResult_ok _⟩
  · exact ⟨.refl s, managementResult_ok _⟩

theorem getSlaveRun_manages (a : Nat) (s : State) : (getSlaveRun a s).Manages s := by
  unfold getSlaveRun
  split
  · next k hk =>
    obtain rfl : k = .configurationError :=
      firstError_kind (Q := (· = .configurationError)) hk (by simp [addressCheck, configuredCheck])
    exact ⟨.refl s, managementResult_configurationError⟩
  · split <;> exact ⟨.refl s, managementResult_ok _⟩

theorem flushRun_manages (s : State) : (flushRun s).Manages s := by
  unfold flushRun
  split
  · next k hk =>
    obtain rfl : k = .configurationError :=
      firstError_kind (Q := (· = .configurationError)) hk (by simp [configuredCheck])
    exact ⟨.refl s, managementResult_configurationError⟩
  · refine (Proc.call_atRest (.refl s) _ _).andThen fun ok t ht => ?_
    split
    · exact ⟨ht, managementResult_ok _⟩
    · exact ⟨ht, managementResult_transportError⟩

/-- Every host request that is no bus operation makes its calls at rest. -/
theorem operationOf_manages {i : Instr} (hi : i.isBusOp = false) {s : State} {o : Operation}
    (h : operationOf i s = some o) : o.Runs (Proc.Manages s) := by
  cases i <;> cases hi <;> cases h
  case configure f z => exact whenFree_runs (configureRun_manages f z s)
  case terminate => exact whenFree_runs (terminateRun_manages s)
  case getSlave a => exact whenFree_runs (getSlaveRun_manages a s)
  case flushOp => exact whenFree_runs (flushRun_manages s)
  case frequency => exact whenFree_runs (P := Proc.Manages s) ⟨.refl s, managementResult_ok _⟩
  case frequencyMax => exact whenFree_runs (P := Proc.Manages s) ⟨.refl s, managementResult_ok _⟩
  case sConfigureRegister b big width =>
    refine withHandle_runs fun h _ => ?_
    split
    · exact ⟨.refl s, managementResult_ok _⟩
    · exact ⟨.refl s, managementResult_configurationError⟩
  case sShiftAddress b offset =>
    refine withHandle_runs fun h _ => ?_
    split
    · exact ⟨.refl s, managementResult_ok _⟩
    · exact ⟨.refl s, managementResult_configurationError⟩
  case sFlush b => exact withHandle_runs fun _ _ => whenFree_runs (flushRun_manages s)

/-! #### Back to the instruction -/

theorem format_of_operationOf {i : Instr} {s : State} {o : Operation} (ho : operationOf i s = some o) :
    i.format ≠ .command := by
  intro hi
  rw [(operationOf_eq_none_iff i s).2 hi] at ho
  cases ho

theorem operationOf_of_isBusOp {i : Instr} (hi : i.isBusOp = true) (s : State) : ∃ o, operationOf i s = some o := by
  cases i <;> cases hi <;> exact ⟨_, rfl⟩

/-- A host request that came back ran the procedure it started to its end. -/
theorem exec_returned {P : Proc Result → Prop} {i : Instr} {s t : State} {o : Operation}
    (ho : operationOf i s = some o) (hruns : o.Runs P) (h : exec i s = .next t) (hpending : t.pending = none) :
    ∃ p r u, P p ∧ p.run = .done r u ∧ t = (u.setPhase .idle).respond r := by
  have hstarted := operationOf_runs ho
  rw [exec_of_operation ho] at h
  cases o with
  | refused r => cases h
  | running p =>
    rcases Run.outcome_next h with ⟨r, u, hu, rfl⟩ | hstuck
    · exact ⟨p, r, u, hruns, hu, rfl⟩
    · obtain ⟨u, c, -, rfl⟩ := (Proc.ensures_of_run_stuck hstuck).1 (Started.undelivered hstarted)
      cases hpending

/-- A host request that delivered `res` ran the procedure it started to that end. -/
theorem exec_responded {P : Proc Result → Prop} {i : Instr} {s t : State} {o : Operation} {res : Result}
    (ho : operationOf i s = some o) (hruns : o.Runs P) (h : exec i s = .next t)
    (hres : t.responses = s.responses ++ [res]) :
    ∃ p u, P p ∧ p.run = .done res u ∧ t = (u.setPhase .idle).respond res := by
  rcases oneResultOrStuck i s t (format_of_operationOf ho) h with ⟨hpending, -, -⟩ | ⟨-, hsame, -⟩
  · obtain ⟨p, r, u, hp, hu, rfl⟩ := exec_returned ho hruns h hpending
    obtain ⟨-, hsame⟩ := List.append_inj' (t₁ := [r]) (t₂ := [res]) hres rfl
    obtain rfl := List.singleton_inj.1 hsame
    exact ⟨p, u, hp, hu, rfl⟩
  · exact absurd (List.append_right_eq_self.1 (hres.symm.trans hsame)) (List.cons_ne_nil _ _)

/-- An instruction that delivered an error of neither R261 nor R262 is a bus operation. -/
theorem exec_busError {i : Instr} {s t : State} {k : ErrKind} (h : exec i s = .next t)
    (hres : t.responses = s.responses ++ [.err k]) (hconfig : k ≠ .configurationError)
    (htransport : k ≠ .transportError) :
    i.isBusOp = true ∧
      ∃ p u, BusChecked i s p ∧ p.run = .done (.err k) u ∧ t = (u.setPhase .idle).respond (.err k) := by
  cases ho : operationOf i s with
  | none =>
    obtain ⟨c, hc⟩ := exec_of_command ((operationOf_eq_none_iff i s).1 ho) s
    cases hc.symm.trans h
    exact absurd (List.append_right_eq_self.1 hres.symm) (List.cons_ne_nil _ _)
  | some o =>
    cases hi : i.isBusOp with
    | true => exact ⟨rfl, exec_responded ho (operationOf_checked hi ho) h hres⟩
    | false =>
      obtain ⟨p, u, hp, hu, -⟩ := exec_responded ho (operationOf_manages hi ho) h hres
      obtain ⟨-, hkind⟩ := (Proc.ensures_of_run_done hu).1 hp
      rcases hkind k rfl with rfl | rfl
      · exact absurd rfl hconfig
      · exact absurd rfl htransport

/-- `read`, `write` and `exchange` answer, once they run, no error but a refusal or a transport failure (R170). -/
theorem run_errors (s : State) :
    (run s).Returns fun r _ => ∀ k, r = .err k → k = .negativeAcknowledgement ∨ k = .transportError :=
  (Proc.returns_of_forall (attempts _ s) fun _ _ => trivial).andThen fun o t _ => by
    rintro k hk
    cases o with
    | acked d => cases hk
    | nack => exact .inl (Result.err.inj hk).symm
    | transport => exact .inr (Result.err.inj hk).symm

/-- `poll` answers a refusal as "not present" (R263). -/
theorem runPoll_errors (s : State) : (runPoll s).Returns fun r _ => ∀ k, r = .err k → k = .transportError :=
  (Proc.returns_of_forall (attempts _ s) fun _ _ => trivial).andThen fun o t _ => by
    rintro k hk
    cases o with
    | acked d => cases hk
    | nack => cases hk
    | transport => exact (Result.err.inj hk).symm

/-- Settles O55: only the fourth check of `exchange` raises it, before any call. -/
theorem payloadTooLargeIsTheExchangeBound : Obligations.PayloadTooLargeIsTheExchangeBound := by
  have direct (s : State) (a n : Nat) (out : Bytes) (hs : s.free) (ha : a ≤ Config.addrMax) (hout : out ≠ [])
      (hn : 21844 < n) :
      exec (.exchange a out n) s = .next { s with responses := s.responses ++ [.err .payloadTooLarge] } := by
    obtain ⟨-, -, -, hbound, -⟩ := (validationInOrder s a n out hs).2 ha
    exact hbound hout hn
  refine ⟨fun i s t hempty h hres => ?_, direct, fun s b r n h p out hs hslaves hb hp hout hn => ?_⟩
  · obtain ⟨hi, p, u, hp, hu, rfl⟩ := exec_busError h hres nofun nofun
    cases hp with
    | rejected hk =>
      rw [Proc.run_done] at hu
      cases hu
      obtain ⟨o, ho⟩ := operationOf_of_isBusOp hi s
      obtain ⟨hphase, -⟩ := free_of_exec_next (format_of_operationOf ho) h
      rcases hk with (hk | hk) | ⟨-, hover⟩
      · cases hk
      · exact absurd hk.symm hempty
      · refine ⟨?_, hover⟩
        rw [← hphase]
        rfl
    | transaction x _ _ =>
      rcases (Proc.ensures_of_run_done hu).1 (run_errors _) _ rfl with hk | hk <;> cases hk
    | poll x _ _ => cases (Proc.ensures_of_run_done hu).1 (runPoll_errors _) _ rfl
  · obtain ⟨-, hea, hwidth⟩ := hslaves.2 _ (mem_of_mapGet hb)
    obtain ⟨-, -, hprefix, -⟩ := registerAccessPrependsThePrefix s b h r p hb hp
    exact ⟨(exec_sReadFrom hb hp n).trans (direct s h.ea n p hs hea (hprefix hwidth) hn),
      (exec_sExchange hb out n).trans (direct s h.ea n out hs hea hout hn)⟩

/-! ### The frame of a bus operation (R267) -/

/-- `Q` of the state a procedure comes to, whether it returns or is stuck. -/
def Proc.Leaves {α : Type} (p : Proc α) (Q : State → Prop) : Prop := p.Ensures (fun _ t => Q t) Q

section Leaves

variable {α β : Type} {p : Proc α} {Q Q' : State → Prop}

theorem Proc.Leaves.andThen {f : α → State → Proc β} (h : p.Leaves Q) (hf : ∀ a t, Q t → (f a t).Leaves Q) :
    (p.andThen f).Leaves Q :=
  Proc.Ensures.andThen h hf

theorem Proc.Leaves.mono (h : p.Leaves Q) (hQ : ∀ t, Q t → Q' t) : p.Leaves Q' := Proc.Ensures.mono h (fun _ => hQ) hQ

theorem Proc.Leaves.and (h : p.Leaves Q) (h' : p.Leaves Q') : p.Leaves fun t => Q t ∧ Q' t := by
  cases hr : p.run with
  | done a t =>
    exact (Proc.ensures_of_run_done hr).2 ⟨(Proc.ensures_of_run_done hr).1 h, (Proc.ensures_of_run_done hr).1 h'⟩
  | stuck t =>
    exact (Proc.ensures_of_run_stuck hr).2 ⟨(Proc.ensures_of_run_stuck hr).1 h, (Proc.ensures_of_run_stuck hr).1 h'⟩

/-- What a relation that the sequencer keeps to says of the state it comes to. -/
theorem Proc.Keeps.leaves {R : State → State → Prop} {s : State} (h : p.Keeps R s) (hQ : ∀ t, R s t → Q t)
    (hhung : ∀ c t, Q t → Q (hung c t)) : p.Leaves Q :=
  h.mono (fun _ => hQ) fun _ ⟨u, c, hu, e, _⟩ => e ▸ hhung c u (hQ u hu)

/-- What the procedure of an instruction leaves, the instruction leaves where its result does not change it. -/
theorem exec_leaves {i : Instr} {s t : State} {o : Operation} (ho : operationOf i s = some o)
    (hruns : o.Runs fun p => p.Leaves Q) (hend : ∀ r u, Q u → Q ((u.setPhase .idle).respond r))
    (h : exec i s = .next t) : Q t := by
  obtain ⟨p, hp, hout⟩ := exec_next_of_runs ho hruns h
  rcases Run.outcome_next hout with ⟨r, u, hu, rfl⟩ | hstuck
  · exact hend r u ((Proc.ensures_of_run_done hu).1 hp)
  · exact (Proc.ensures_of_run_stuck hstuck).1 hp

end Leaves

/-! #### Every bus operation -/

/-- The answers to the calls of `configure` are still to come. -/
def SetUpAnswersKept (s t : State) : Prop := t.env.connects = s.env.connects ∧ t.env.driveZero = s.env.driveZero

theorem setUpAnswersKept_closed : SequencerClosed SetUpAnswersKept where
  refl _ := ⟨rfl, rfl⟩
  trans := fun ⟨hconnects, hzero⟩ ⟨hconnects', hzero'⟩ => ⟨hconnects'.trans hconnects, hzero'.trans hzero⟩
  sent _ _ := ⟨rfl, rfl⟩
  cut _ := ⟨rfl, rfl⟩
  received _ := ⟨rfl, rfl⟩
  phase _ _ _ := ⟨rfl, rfl⟩
  ackBit _ _ := ⟨rfl, rfl⟩
  readRegs _ _ _ := ⟨rfl, rfl⟩
  cache s := by
    unfold cachedChunkMid
    cases mapGet s.chunkSize.toNat s.chunkCache <;> exact ⟨rfl, rfl⟩

section SequencerClosed

variable {R : State → State → Prop} (hR : SequencerClosed R) (hattempt : ∀ s n, R s (s.setAttempt n)) (s : State)
include hR hattempt

theorem run_keeps : (run s).Keeps R s :=
  (attempts_keeps hR (fun t _ => hattempt t _) (hattempt s 1)).andThen hR fun _ t _ => hR.refl t

theorem runPoll_keeps : (runPoll s).Keeps R s :=
  (attempts_keeps hR (fun t _ => hattempt t _) (hattempt s 1)).andThen hR fun _ t _ => hR.refl t

end SequencerClosed

/-- What every bus operation leaves alone; the record of calls only grows. -/
def BusOpFrame (s t : State) : Prop := SameConfiguration s t ∧ s.calls <+: t.calls ∧ SetUpAnswersKept s t

theorem BusStarted.leaves_busOpFrame {s : State} {p : Proc Result} (h : BusStarted s p) : p.Leaves (BusOpFrame s) := by
  have kept {s : State} {p : Proc Result} (hframe : p.Keeps BusFrame s) (hanswers : p.Keeps SetUpAnswersKept s) :
      p.Leaves (BusOpFrame s) := by
    have hcalls : p.Leaves fun t => SameConfiguration s t ∧ s.calls <+: t.calls :=
      hframe.leaves (fun t ht => ⟨ht.config, ht.calls⟩) fun _ _ ⟨hconfig, hgrow⟩ =>
        ⟨hconfig, hgrow.trans (List.prefix_append _ _)⟩
    exact (hcalls.and (hanswers.leaves (fun _ => id) fun _ _ => id)).mono fun t ⟨⟨hconfig, hgrow⟩, hkept⟩ =>
      ⟨hconfig, hgrow, hkept⟩
  have hattempt (s : State) (n : Nat) : SetUpAnswersKept s (s.setAttempt n) := ⟨rfl, rfl⟩
  cases h with
  | rejected k => exact ⟨sameConfiguration_refl s, List.prefix_rfl, rfl, rfl⟩
  | transaction x => exact kept (s := s.setTxn x) (run_frame _) (run_keeps setUpAnswersKept_closed hattempt _)
  | poll x => exact kept (s := s.setTxn x) (runPoll_frame _) (runPoll_keeps setUpAnswersKept_closed hattempt _)

/-! #### The transaction registers an operation does not use (10_state.md R28) -/

/-- The transaction registers that only the start of an operation writes. -/
def TxnKept (x y : Transaction) : Prop := y.abW = x.abW ∧ y.abR = x.abR ∧ y.out = x.out ∧ y.rlen = x.rlen

theorem BusFrame.txnKept {s t : State} (h : BusFrame s t) : TxnKept s.txn t.txn := ⟨h.abW, h.abR, h.out, h.rlen⟩

theorem run_leaves_txnKept (s : State) : (run s).Leaves fun t => TxnKept s.txn t.txn :=
  (run_frame s).leaves (fun _ => BusFrame.txnKept) fun _ _ => id

theorem runPoll_leaves_txnKept (s : State) : (runPoll s).Leaves fun t => TxnKept s.txn t.txn :=
  (runPoll_frame s).leaves (fun _ => BusFrame.txnKept) fun _ _ => id

/-- From `s` to `t` no read phase was made: `REM` and the cache are as they were. -/
def Unread (s t : State) : Prop := t.txn.op = s.txn.op ∧ t.txn.rem = s.txn.rem ∧ t.chunkCache = s.chunkCache

section Unread

variable {s t : State}

theorem roundTrip_unread (ht : Unread s t) {v : Bytes} {n budget : Nat} {k : Bytes → State → Proc PhaseOutcome}
    (hk : ∀ r u, Unread s u → (k r u).Leaves (Unread s)) : (roundTrip v n budget t k).Leaves (Unread s) := by
  have hsend : (memWrite v t).Leaves (Unread s) := by
    rcases memWrite_cases v t with ⟨ok, rest, -, hrun⟩ | ⟨-, hrun⟩
    · exact (Proc.ensures_of_run_done hrun).2 ht
    · exact (Proc.ensures_of_run_stuck hrun).2 ht
  have hreceive (u : State) (hu : Unread s u) : (memRead n budget u).Leaves (Unread s) := by
    rcases memRead_cases n budget u with ⟨r, rest, -, hrun⟩ | ⟨-, hrun⟩
    · exact (Proc.ensures_of_run_done hrun).2 hu
    · exact (Proc.ensures_of_run_stuck hrun).2 hu
  refine hsend.andThen fun ok u hu => ?_
  split
  · exact (hreceive u hu).andThen hk
  · exact hu

theorem ackTest_unread (ht : Unread s t) (r : Bytes) : (ackTest r t).Leaves (Unread s) := by
  cases r <;> exact ht

theorem prolog_unread (ht : Unread s t) (ab : Byte) : (prolog ab t).Leaves (Unread s) :=
  roundTrip_unread (t := t.setPhase .prolog) ht fun r _ hu => ackTest_unread hu r

theorem ifAcked_unread {p : Proc PhaseOutcome} {k : State → Proc PhaseOutcome} (h : p.Leaves (Unread s))
    (hk : ∀ t, Unread s t → (k t).Leaves (Unread s)) : (ifAcked p k).Leaves (Unread s) :=
  h.andThen fun o t ht => by
    cases o with
    | acked d => exact hk t ht
    | nack => exact ht
    | transport => exact ht

theorem writeBytes_unread (ht : Unread s t) (out : Bytes) : (writeBytes out t).Leaves (Unread s) := by
  induction out generalizing t with
  | nil => exact ht
  | cons b out ih =>
    rw [writeBytes_cons]
    exact ifAcked_unread (roundTrip_unread ht fun r _ hu => ackTest_unread hu r) fun u hu => ih hu

/-- Only `read` and `exchange` have a read phase (R168). -/
theorem body_unread (hop : s.txn.op = .write ∨ s.txn.op = .poll) (ht : Unread s t) : (body t).Leaves (Unread s) := by
  obtain ⟨htop, -⟩ := id ht
  rw [← htop] at hop
  unfold body
  rcases hop with hop | hop <;> rw [hop]
  · exact ifAcked_unread (prolog_unread ht _) fun u hu => writeBytes_unread (t := u.setPhase .payload) hu _
  · exact prolog_unread ht _

theorem attemptOnce_unread (hop : s.txn.op = .write ∨ s.txn.op = .poll) (ht : Unread s t) :
    (attemptOnce t).Leaves (Unread s) :=
  (body_unread hop ht).andThen fun b u hu => by
    have hepilog : (epilog u).Leaves (Unread s) := roundTrip_unread (t := u.setPhase .epilog) hu fun _ _ hu => hu
    refine hepilog.andThen fun e u hu => ?_
    cases hout : attemptOutcome b e <;> exact hu

theorem attemptsFuel_unread (hop : s.txn.op = .write ∨ s.txn.op = .poll) (ht : Unread s t) (budget fuel : Nat) :
    (attemptsFuel budget fuel t).Leaves (Unread s) := by
  induction fuel generalizing t with
  | zero => exact ht
  | succ fuel ih =>
    refine (attemptOnce_unread hop ht).andThen fun o u hu => ?_
    split
    · exact ih (t := u.setAttempt _) hu
    · exact hu

theorem run_unread (hop : s.txn.op = .write) : (run s).Leaves (Unread s) :=
  (attemptsFuel_unread (t := s.setAttempt 1) (.inl hop) ⟨rfl, rfl, rfl⟩ _ _).andThen fun _ _ ht => ht

theorem runPoll_unread (hop : s.txn.op = .poll) : (runPoll s).Leaves (Unread s) :=
  (attemptsFuel_unread (t := s.setAttempt 1) (.inr hop) ⟨rfl, rfl, rfl⟩ _ _).andThen fun _ _ ht => ht

end Unread

section Registers

variable (s : State)

theorem readOp_leaves (a n : Nat) :
    (readOp a n s).Runs fun p => p.Leaves fun t => t.txn.abW = s.txn.abW ∧ t.txn.out = s.txn.out :=
  whenFree_runs (validated_runs_err _ (fun _ => ⟨rfl, rfl⟩) (needsChunks_runs
    ((run_leaves_txnKept _).mono fun _ ⟨habW, _, hout, _⟩ => ⟨habW, hout⟩)))

theorem writeOp_leaves (a : Nat) (out : Bytes) :
    (writeOp a out s).Runs fun p => p.Leaves fun t =>
      t.txn.abR = s.txn.abR ∧ t.txn.rlen = s.txn.rlen ∧ t.txn.rem = s.txn.rem ∧ t.chunkCache = s.chunkCache :=
  whenFree_runs (validated_runs_err _ (fun _ => ⟨rfl, rfl, rfl, rfl⟩)
    (((run_leaves_txnKept _).and (run_unread rfl)).mono
      fun _ ⟨⟨_, habR, _, hrlen⟩, _, hrem, hcache⟩ => ⟨habR, hrlen, hrem, hcache⟩))

/-- What `poll` leaves of the registers; it writes the address byte of the direction `POLL_RW` (R194). -/
def PollFrame (t : State) : Prop :=
  (s.par.pollRw = true → t.txn.abW = s.txn.abW) ∧ (s.par.pollRw = false → t.txn.abR = s.txn.abR) ∧
    t.txn.out = s.txn.out ∧ t.txn.rlen = s.txn.rlen ∧ t.txn.rem = s.txn.rem ∧ t.chunkCache = s.chunkCache

theorem pollOp_leaves (a : Nat) : (pollOp a s).Runs fun p => p.Leaves (PollFrame s) := by
  refine whenFree_runs (validated_runs_err _ (fun _ => ⟨fun _ => rfl, fun _ => rfl, rfl, rfl, rfl, rfl⟩)
    (((runPoll_leaves_txnKept _).and (runPoll_unread (pollTxn_op _ a _))).mono ?_))
  rintro t ⟨⟨habW, habR, hout, hrlen⟩, -, hrem, hcache⟩
  cases hrw : s.par.pollRw <;> rw [hrw] at habW habR hout hrlen hrem
  · exact ⟨fun h => absurd (hrw.symm.trans h) nofun, fun _ => habR, hout, hrlen, hrem, hcache⟩
  · exact ⟨fun _ => habW, fun h => absurd (hrw.symm.trans h) nofun, hout, hrlen, hrem, hcache⟩

end Registers

/-- Settles O46: the sequencer writes no configuration (`BusFrame`), only the start of an operation writes its address
bytes, `OUT` and `RLEN`, and only a read phase writes `REM` and the cache. -/
theorem busOperationFrame : Obligations.BusOperationFrame := by
  intro i s t hi h
  obtain ⟨o, ho⟩ := operationOf_of_isBusOp hi s
  have hframe : BusOpFrame s t :=
    exec_leaves ho ((operationOf_runs_bus hi ho).mono fun _ => BusStarted.leaves_busOpFrame) (fun _ _ => id) h
  obtain ⟨hconfig, hcalls, hconnects, hdriveZero⟩ := hframe
  refine ⟨hconfig, hcalls, hconnects, hdriveZero, ?_, ?_, ?_⟩
  · rintro a n rfl
    exact exec_leaves rfl (readOp_leaves s a n) (fun _ _ => id) h
  · rintro a out rfl
    exact exec_leaves rfl (writeOp_leaves s a out) (fun _ _ => id) h
  · rintro a rfl
    exact exec_leaves rfl (pollOp_leaves s a) (fun _ _ => id) h

/-! ### Three refusals (R263) -/

/-! #### The flag of a refusal (10_state.md R29) -/

/-- Where the outcome is a refusal, the flag is set. -/
def Flagged (o : PhaseOutcome) (t : State) : Prop := o = .nack → t.ackBit = true

theorem ackTest_flagged (r : Bytes) (s : State) : (ackTest r s).Returns Flagged := by
  cases r with
  | nil => exact nofun
  | cons b r =>
    show Flagged (if ackBitOf b then .nack else .acked []) (s.setAckBit (ackBitOf b))
    cases ackBitOf b with
    | true => exact fun _ => rfl
    | false => exact nofun

theorem roundTrip_ackTest_flagged (v : Bytes) (n budget : Nat) (s : State) :
    (roundTrip v n budget s ackTest).Returns Flagged :=
  roundTrip_returns_tripped (fun _ => nofun) fun r _ _ _ => ackTest_flagged r _

theorem prolog_flagged (ab : Byte) (s : State) : (prolog ab s).Returns Flagged := roundTrip_ackTest_flagged _ _ _ _

theorem ifAcked_flagged {p : Proc PhaseOutcome} {k : State → Proc PhaseOutcome} (h : p.Returns Flagged)
    (hk : ∀ t, (k t).Returns Flagged) : (ifAcked p k).Returns Flagged :=
  ifAcked_returns_of h (fun _ t _ => hk t) (fun _ => id) fun _ => nofun

theorem writeBytes_flagged (out : Bytes) (s : State) : (writeBytes out s).Returns Flagged := by
  induction out generalizing s with
  | nil => exact nofun
  | cons b out ih =>
    rw [writeBytes_cons]
    exact ifAcked_flagged (roundTrip_ackTest_flagged _ _ _ _) ih

/-- A read phase is never refused (R263). -/
theorem readChunks_flagged (fuel : Nat) (s : State) : (readChunks fuel s).Returns Flagged := by
  induction fuel generalizing s with
  | zero => exact nofun
  | succ fuel ih =>
    unfold readChunks
    split
    · exact nofun
    · refine roundTrip_returns_tripped (fun _ => nofun) fun r _ _ _ => ?_
      split
      · exact nofun
      · exact ih _

theorem body_flagged (s : State) : (body s).Returns Flagged := by
  rw [body_eq]
  refine ifAcked_flagged (prolog_flagged _ s) fun t => ?_
  cases s.txn.op with
  | read => exact readChunks_flagged _ _
  | write => exact writeBytes_flagged _ _
  | exchange =>
    exact ifAcked_flagged (writeBytes_flagged _ _) fun u => ifAcked_flagged (prolog_flagged _ u) fun _ =>
      readChunks_flagged _ _
  | poll => exact nofun

theorem epilog_returns_ackBit (s : State) :
    (epilog s).Returns fun e t => e ≠ .transport → t.ackBit = s.ackBit :=
  roundTrip_returns_tripped (fun _ h => absurd rfl h) fun _ _ _ _ _ => tripped_ackBit ..

/-- An attempt is refused where its body is and its epilog was delivered (R169). -/
theorem attemptOutcome_eq_nack_iff {b e : PhaseOutcome} :
    attemptOutcome b e = .nack ↔ b = .nack ∧ e ≠ .transport := by
  unfold attemptOutcome
  split
  · next h => exact ⟨nofun, fun ⟨hb, he⟩ => h.elim (fun h => nomatch hb.symm.trans h) fun h => absurd h he⟩
  · next h => exact ⟨fun hb => ⟨hb, fun he => h (.inr he)⟩, And.left⟩

theorem settleRead_ackBit (o : PhaseOutcome) (s : State) : (settleRead o s).ackBit = s.ackBit := by cases o <;> rfl

theorem attemptOnce_flagged (s : State) : (attemptOnce s).Returns Flagged :=
  (body_flagged s).andThen fun b t hb => (epilog_returns_ackBit t).andThen fun e u hu hnack => by
    obtain ⟨hbody, hepilog⟩ := attemptOutcome_eq_nack_iff.1 hnack
    rw [settleRead_ackBit, hu hepilog, hb hbody]

/-- A refusal that no attempt followed was that of the last attempt allowed (R170). -/
theorem attemptsFuel_nack {budget fuel : Nat} {s : State} (hle : s.attempt ≤ budget)
    (hfuel : s.attempt + fuel = budget + 1) :
    (attemptsFuel budget fuel s).Returns fun o t => o = .nack → t.attempt = budget ∧ t.ackBit = true := by
  induction fuel generalizing s with
  | zero => omega
  | succ fuel ih =>
    have hmade : (attemptOnce s).Returns fun _ t => t.attempt = s.attempt :=
      Proc.Ensures.mono (attemptOnce_calls s) (fun _ _ ⟨_, hmade, _⟩ => hmade.attempt) fun _ _ => trivial
    refine ((attemptOnce_flagged s).and hmade).andThen fun o t ⟨hflag, hattempt⟩ => ?_
    split
    · next hagain =>
      obtain ⟨-, hlt⟩ := hagain
      exact ih (s := t.setAttempt (t.attempt + 1)) hlt (by rw [State.setAttempt_attempt]; omega)
    · next hlast =>
      intro ho
      have hmost : ¬t.attempt < budget := fun hlt => hlast ⟨ho, hlt⟩
      exact ⟨by omega, hflag ho⟩

theorem attempts_nack {budget : Nat} (hpos : 1 ≤ budget) (s : State) :
    (attempts budget s).Returns fun o t => o = .nack → t.attempt = budget ∧ t.ackBit = true :=
  attemptsFuel_nack (s := s.setAttempt 1) hpos (Nat.add_comm 1 budget)

/-! #### The refused attempts -/

/-- Where the last attempt was refused, all of them were (R170). -/
theorem Plan.Attempts.refused_of_nack {q : Plan} {j k n : Nat} {l : List CallRecord}
    (h : q.Attempts n (some .nack) k l) (hk : k ≤ j) (hj : j ≤ n) : attemptRefused q.par q.tpl l j := by
  rcases hj.lt_or_eq with hlt | rfl
  · exact h.refused hk hlt
  · obtain ⟨o, hattempt, -, hlast⟩ := h.filter hk le_rfl
    obtain rfl := hlast rfl
    obtain ⟨m, r, r', hl, hbyte⟩ := hattempt.refused
    rw [List.filter_filter] at hl
    refine ⟨m, r, r', ?_, hbyte⟩
    rw [← hl]
    exact List.filter_congr fun c _ => by rw [Bool.decide_and, Bool.and_comm]

/-- From `s` to `t` an operation made the attempts allowed, `budget` in number, each refused. -/
structure RefusedThroughout (budget : Nat) (s t : State) : Prop where
  attempt : t.attempt = budget
  ackBit : t.ackBit = true
  refused : ∃ l, t.calls = s.calls ++ l ∧ ∀ k, 1 ≤ k → k ≤ budget → attemptRefused s.par s.tpl l k

theorem attempts_refusedThroughout {budget : Nat} (hpos : 1 ≤ budget) (s : State) :
    (attempts budget s).Returns fun o t => o = .nack → RefusedThroughout budget s t := by
  have hcalls := Proc.Ensures.mono (attempts_calls hpos s) (fun _ _ ⟨_, h⟩ => h) fun _ _ => trivial
  refine Proc.Ensures.mono ((attempts_nack hpos s).and hcalls)
    (fun o t ⟨hnack, _, l, hl, hattempts⟩ ho => ?_) fun _ => id
  obtain ⟨hattempt, hack⟩ := hnack ho
  subst ho
  exact ⟨hattempt, hack, l, hl, fun k hk hle => hattempts.refused_of_nack hk (hattempt ▸ hle)⟩

theorem run_refusedThroughout (s : State) :
    (run s).Returns fun r t => r = .err .negativeAcknowledgement → RefusedThroughout 3 s t :=
  Proc.Returns.andThen (attempts_refusedThroughout (by decide) s) fun o t ho hr => ho (by
    cases o with
    | nack => rfl
    | acked d => cases hr
    | transport => cases hr)

/-! #### What follows a refused byte (41_phases.md R163, R168) -/

section Trips

variable {P : Params} {T : Templates} {k : Nat} {s : State} {l l' : List CallRecord} {o : Option PhaseOutcome}
  {r q : CallRecord}

theorem RefusedByte.sent (h : RefusedByte P T r q) : ∃ v, r.call = .sendCommands v := by
  obtain ⟨x, b, -, -, ⟨-, hcall⟩ | ⟨-, hcall⟩, -⟩ := h <;> exact ⟨_, hcall⟩

/-- A byte is refused in the body of an attempt. -/
theorem RefusedByte.phase (h : RefusedByte P T r q) : (r.phase = .prolog ∨ r.phase = .payload) ∧ q.phase = r.phase := by
  obtain ⟨x, b, -, -, hcall, rfl⟩ := h
  exact ⟨hcall.imp And.left And.left, rfl⟩

theorem RefusedByte.phase_ne (h : RefusedByte P T r q) {p : Phase} (hprolog : p ≠ .prolog) (hpayload : p ≠ .payload) :
    r.phase ≠ p ∧ q.phase ≠ p := by
  obtain ⟨hphase, hq⟩ := h.phase
  rw [hq]
  rcases hphase with hp | hp <;> rw [hp]
  · exact ⟨hprolog.symm, hprolog.symm⟩
  · exact ⟨hpayload.symm, hpayload.symm⟩

/-- The calls of a body that came to `o`, trip after trip: no trip that another followed was that of a refused byte. -/
inductive TripCalls (P : Params) (T : Templates) : Option PhaseOutcome → List CallRecord → Prop where
  | ended (d : Bytes) : TripCalls P T (some (.acked d)) []
  | broken {l : List CallRecord} (h : l.length ≤ 1) : TripCalls P T (some .transport) l
  | stuck {l : List CallRecord} : TripCalls P T none l
  | refused {r q : CallRecord} (h : RefusedByte P T r q) : TripCalls P T (some .nack) [r, q]
  | passed {p : Phase} {k n budget : Nat} {v r : Bytes} {o : Option PhaseOutcome} {l : List CallRecord}
      (h : ¬RefusedByte P T ⟨.sendCommands v, p, k, .ok⟩ ⟨.receiveBytes n budget, p, k, .bytes r⟩)
      (hl : TripCalls P T o l) : TripCalls P T o (roundTripCalls p k v n budget r ++ l)

/-- A refused byte is the end of the body, and decides it. -/
theorem TripCalls.refused_last (h : TripCalls P T o l) (ho : o ≠ none) {m rest : List CallRecord}
    (hl : l = m ++ r :: q :: rest) (hbyte : RefusedByte P T r q) : rest = [] ∧ o = some .nack := by
  have hlength : l.length = m.length + (rest.length + 2) := by
    rw [hl, List.length_append, List.length_cons, List.length_cons]
  induction h generalizing m with
  | ended d => cases hlength
  | broken h => omega
  | stuck => exact absurd rfl ho
  | refused _ =>
    simp only [List.length_cons, List.length_nil] at hlength
    exact ⟨List.length_eq_zero_iff.1 (by omega), rfl⟩
  | passed hpassed _ ih =>
    match m with
    | [] =>
      simp only [roundTripCalls, List.cons_append, List.nil_append, List.cons.injEq] at hl
      obtain ⟨rfl, rfl, -⟩ := hl
      exact absurd hbyte hpassed
    | [_] =>
      simp only [roundTripCalls, List.cons_append, List.nil_append, List.cons.injEq] at hl
      obtain ⟨-, rfl, -⟩ := hl
      obtain ⟨v, hv⟩ := hbyte.sent
      cases hv
    | _ :: _ :: m =>
      simp only [roundTripCalls, List.cons_append, List.nil_append, List.cons.injEq] at hl
      obtain ⟨-, -, hl⟩ := hl
      exact ih ho hl (by rw [hl, List.length_append, List.length_cons, List.length_cons])

theorem TripCalls.append {d : Bytes} (h : TripCalls P T (some (.acked d)) l) (h' : TripCalls P T o l') :
    TripCalls P T o (l ++ l') := by
  generalize hx : some (PhaseOutcome.acked d) = x at h
  induction h with
  | ended _ => exact h'
  | broken _ => cases hx
  | stuck => cases hx
  | refused _ => cases hx
  | passed hpassed _ ih =>
    rw [List.append_assoc]
    exact .passed hpassed (ih hx)

theorem ifAcked_trips {p : Proc PhaseOutcome} {f : State → Proc PhaseOutcome} (h : p.CallsAre s (TripCalls P T))
    (hf : ∀ t l, Made s t l → (f t).CallsAre t (TripCalls P T)) : (ifAcked p f).CallsAre s (TripCalls P T) :=
  h.andThen (fun _ => id) fun o t l hmade hl => by
    cases o with
    | acked d => exact (hf t l hmade).mono fun _ _ => hl.append
    | nack => exact Proc.callsAre_done ((List.append_nil l).symm ▸ hl)
    | transport => exact Proc.callsAre_done ((List.append_nil l).symm ▸ hl)

/-- A byte is sent and, if it is acknowledged, the body goes on (R161, R163). -/
theorem byteTrip_trips {v : Bytes} {f : State → Proc PhaseOutcome} (hs : s.InAttempt P T k)
    (hv : ∃ x, (s.phase = .prolog ∧ v = T.prologCmd x) ∨ (s.phase = .payload ∧ v = T.wu x))
    (hf : ∀ t l, Made s t l → t.phase = s.phase → (f t).CallsAre t (TripCalls P T)) :
    (ifAcked (roundTrip v 1 s.par.rxBudget s ackTest) f).CallsAre s (TripCalls P T) := by
  rw [ifAcked_roundTrip]
  refine roundTrip_calls (.broken le_rfl) .stuck .stuck fun r t hr hmade _ hphase => ?_
  have passed (hack : ∀ b, r = [b] → ackBitOf b = false) {o : Option PhaseOutcome} {l : List CallRecord}
      (hl : TripCalls P T o l) :
      TripCalls P T o (roundTripCalls s.phase s.attempt v 1 s.par.rxBudget r ++ l) := by
    refine .passed ?_ hl
    rintro ⟨x, b, hb, -, -, hq⟩
    simp only [CallRecord.mk.injEq, Answer.bytes.injEq] at hq
    obtain ⟨-, -, -, hr⟩ := hq
    cases hb.symm.trans (hack b hr)
  rcases ackTest_cases hr t with ⟨rfl, htest⟩ | ⟨b, rfl, ⟨hb, htest⟩ | ⟨hb, htest⟩⟩ <;> rw [htest]
  · exact Proc.callsAre_done (passed nofun (.broken (Nat.zero_le 1)))
  · have hnack : Made t (t.setAckBit true) [] := ⟨_, _, progress_setAckBit t true⟩
    obtain ⟨rfl, rfl, rfl⟩ := hs
    obtain ⟨x, hv⟩ := hv
    exact Proc.CallsAre.after hnack (Proc.callsAre_done (.refused
      ⟨x, b, hb, rfl, hv.imp (And.imp_right (congrArg _)) (And.imp_right (congrArg _)), rfl⟩))
  · have hack : Made t (t.setAckBit false) [] := ⟨_, _, progress_setAckBit t false⟩
    have hbit : ∀ c, [b] = [c] → ackBitOf c = false := by
      rintro c ⟨⟩
      exact hb
    exact Proc.CallsAre.after hack ((hf _ _ (hmade.trans hack) hphase).mono fun _ _ => passed hbit)

theorem prolog_trips (hs : s.InAttempt P T k) (ab : Byte) : (prolog ab s).CallsAre s (TripCalls P T) := by
  have hmade : Made s (s.setPhase .prolog) [] := ⟨_, _, progress_setPhase s (by decide)⟩
  obtain ⟨-, htpl, -⟩ := id hs
  rw [← ifAcked_prolog_done]
  exact Proc.CallsAre.after hmade (byteTrip_trips (s := s.setPhase .prolog) (hmade.inAttempt hs)
    ⟨ab, .inl ⟨rfl, congrArg (·.prologCmd ab) htpl⟩⟩ fun _ _ _ _ => Proc.callsAre_done (.ended []))

theorem writeBytes_trips (hs : s.InAttempt P T k) (hp : s.phase = .payload) (out : Bytes) :
    (writeBytes out s).CallsAre s (TripCalls P T) := by
  induction out generalizing s with
  | nil => exact Proc.callsAre_done (.ended [])
  | cons b out ih =>
    obtain ⟨-, htpl, -⟩ := id hs
    rw [writeBytes_cons]
    exact byteTrip_trips hs ⟨b, .inr ⟨hp, congrArg (·.wu b) htpl⟩⟩
      fun t l hmade hphase => ih (hmade.inAttempt hs) (hphase.trans hp)

theorem writePhase_trips (hs : s.InAttempt P T k) (out : Bytes) : (writePhase out s).CallsAre s (TripCalls P T) := by
  have hmade : Made s (s.setPhase .payload) [] := ⟨_, _, progress_setPhase s (by decide)⟩
  exact Proc.CallsAre.after hmade (writeBytes_trips (hmade.inAttempt hs) rfl out)

/-- The buffer of a one-byte chunk begins with another unit than that of a written byte. -/
theorem nextChunk_ne_wu (hb : s.Built) (hregs : s.RegistersOk) (hone : (nextChunk s).1 = 1) (x : Byte) :
    (nextChunk s).2.1 ≠ s.tpl.wu x := by
  have differ {v : Bytes} {us : List CmdUnit} (hv : v = unitsBytes s.par (.readByte :: us)) : v ≠ s.tpl.wu x := by
    rw [hv, hb.tpl, buildTemplates_wu]
    exact fun h => nomatch (List.cons.inj (unitsBytes_injective hb.encOk h)).1
  by_cases hlast : (s.txn.rem : Int) ≤ s.chunkSize
  · rw [nextChunk_of_le hlast] at hone ⊢
    obtain ⟨us, hus⟩ := readByte_cons_chunkLastUnits s.txn.rem
    have hunits : s.tpl.chunkLast s.txn.rem = unitsBytes s.par (.readByte :: us) := by
      rw [hb.tpl, buildTemplates_chunkLast, hus]
    exact differ hunits
  · rw [nextChunk_of_gt hregs (by omega)] at hone ⊢
    have hsize : s.chunkSize.toNat = 1 := hone
    have hunits : s.tpl.chunkMid s.chunkSize.toNat = unitsBytes s.par ruAckUnits := by
      rw [hsize, hb.tpl, buildTemplates_chunkMid]
      rfl
    exact differ hunits

theorem Made.registersOk {t : State} (h : Made s t l) (hs : s.RegistersOk) : t.RegistersOk := by
  obtain ⟨_, _, hst⟩ := h
  exact hst.registers hs

/-- No chunk is the trip of a refused byte (R263). -/
theorem readChunks_trips (fuel : Nat) (hs : s.InAttempt P T k) (hb : s.Built) (hregs : s.RegistersOk)
    (hp : s.phase = .payload) : (readChunks fuel s).CallsAre s (TripCalls P T) := by
  induction fuel generalizing s with
  | zero => exact Proc.callsAre_done (.ended _)
  | succ fuel ih =>
    unfold readChunks
    split
    · exact Proc.callsAre_done (.ended _)
    · obtain ⟨hnext, hnextPhase⟩ := progress_nextChunk s
      have hmade : Made s (nextChunk s).2.2 [] := ⟨_, _, hnext⟩
      have hpayload := hnextPhase.trans hp
      refine Proc.CallsAre.after hmade (roundTrip_calls (.broken le_rfl) .stuck .stuck
        fun r t hr htrip _ hphase => ?_)
      have passed {o : Option PhaseOutcome} {l : List CallRecord} (hl : TripCalls P T o l) :
          TripCalls P T o (roundTripCalls (nextChunk s).2.2.phase (nextChunk s).2.2.attempt (nextChunk s).2.1
            (nextChunk s).1 s.par.rxBudget r ++ l) := by
        refine .passed ?_ hl
        rintro ⟨x, b, -, -, ⟨hprolog, -⟩ | ⟨-, hwu⟩, hq⟩
        · cases hpayload.symm.trans hprolog
        · simp only [CallRecord.mk.injEq, Call.receiveBytes.injEq] at hq
          obtain ⟨⟨hone, -⟩, -⟩ := hq
          obtain ⟨-, htpl, -⟩ := id hs
          exact nextChunk_ne_wu hb hregs hone x (htpl ▸ Call.sendCommands.inj hwu)
      split
      · exact Proc.callsAre_done (passed (.broken (Nat.zero_le 1)))
      · have htake : Made t (takeChunk (nextChunk s).1 r t) [] := ⟨_, _, progress_readRegs t _ _⟩
        have hall := (hmade.trans htrip).trans htake
        have hrest := ih (hall.inAttempt hs) (hall.frame.built hb) (hall.registersOk hregs) (hphase.trans hpayload)
        exact Proc.CallsAre.after htake (hrest.mono fun _ _ => passed)

theorem readPhase_trips (n : Nat) (hs : s.InAttempt P T k) (hb : s.Built) (hregs : s.RegistersOk) :
    (readPhase n s).CallsAre s (TripCalls P T) := by
  have hmade : Made s ((s.setPhase .payload).setTxn { s.txn with rem := n, rbuf := [] }) [] :=
    ⟨_, _, (progress_setPhase s (by decide)).trans (progress_readRegs (s.setPhase .payload) n [])⟩
  exact Proc.CallsAre.after hmade
    (readChunks_trips n (hmade.inAttempt hs) (hmade.frame.built hb) (hmade.registersOk hregs) rfl)

theorem body_trips (hs : s.InAttempt P T k) (hb : s.Built) (hregs : s.RegistersOk) :
    (body s).CallsAre s (TripCalls P T) := by
  rw [body_eq]
  refine ifAcked_trips (prolog_trips hs _) fun t l ht => ?_
  cases s.txn.op with
  | read => exact readPhase_trips _ (ht.inAttempt hs) (ht.frame.built hb) (ht.registersOk hregs)
  | write => exact writePhase_trips (ht.inAttempt hs) _
  | exchange =>
    refine ifAcked_trips (writePhase_trips (ht.inAttempt hs) _) fun u l' hu => ?_
    refine ifAcked_trips (prolog_trips ((ht.trans hu).inAttempt hs) _) fun v l'' hv => ?_
    have hall := (ht.trans hu).trans hv
    exact readPhase_trips _ (hall.inAttempt hs) (hall.frame.built hb) (hall.registersOk hregs)
  | poll => exact Proc.callsAre_done (.ended [])

end Trips

/-! #### What follows a refused byte in the attempts (R169, R170) -/

/-- Where two calls in a row stand in the calls of two parts. -/
theorem append_eq_append_pair {α : Type} {l l' m rest : List α} {r q : α} (h : l ++ l' = m ++ r :: q :: rest) :
    (∃ rest', l = m ++ r :: q :: rest' ∧ rest = rest' ++ l') ∨ (l = m ++ [r] ∧ l' = q :: rest) ∨
      ∃ m', l' = m' ++ r :: q :: rest := by
  rcases List.append_eq_append_iff.1 h with ⟨m', -, hl'⟩ | ⟨m', hl, hrest⟩
  · exact .inr (.inr ⟨m', hl'⟩)
  · match m', hrest with
    | [], hrest => exact .inr (.inr ⟨[], hrest.symm⟩)
    | [_], hrest =>
      simp only [List.cons_append, List.nil_append, List.cons.injEq] at hrest
      obtain ⟨rfl, hl'⟩ := hrest
      exact .inr (.inl ⟨hl, hl'.symm⟩)
    | _ :: _ :: m', hrest =>
      simp only [List.cons_append, List.cons.injEq] at hrest
      obtain ⟨rfl, rfl, hrest⟩ := hrest
      exact .inl ⟨m', hl, hrest⟩

theorem Proc.CallsAre.and {s : State} {p : Proc PhaseOutcome} {T U : Option PhaseOutcome → List CallRecord → Prop}
    (h : p.CallsAre s T) (h' : p.CallsAre s U) : p.CallsAre s fun o l => T o l ∧ U o l := by
  cases hr : p.run with
  | done o t =>
    obtain ⟨l, hmade, hT⟩ := (Proc.ensures_of_run_done hr).1 h
    obtain ⟨l', hmade', hU⟩ := (Proc.ensures_of_run_done hr).1 h'
    obtain rfl : l = l' := List.append_cancel_left (hmade.calls.symm.trans hmade'.calls)
    exact (Proc.ensures_of_run_done hr).2 ⟨l, hmade, hT, hU⟩
  | stuck t =>
    obtain ⟨l, hhalted, hT⟩ := (Proc.ensures_of_run_stuck hr).1 h
    obtain ⟨l', hhalted', hU⟩ := (Proc.ensures_of_run_stuck hr).1 h'
    obtain rfl : l = l' := List.append_cancel_left (hhalted.calls.symm.trans hhalted'.calls)
    exact (Proc.ensures_of_run_stuck hr).2 ⟨l, hhalted, hT, hU⟩

/-- The calls of an epilog that came to `o`: the `STOP`, whose send decides it, and perhaps the receive (R162). -/
def EpilogStops (T : Templates) (k : Nat) (o : Option PhaseOutcome) (l : List CallRecord) : Prop :=
  (∀ r ∈ l, r.phase = .epilog) ∧
    ∃ a after, l = ⟨.sendCommands T.stop, .epilog, k, a⟩ :: after ∧ (a = .ok → o ≠ some .transport)

theorem epilog_stops {P : Params} {T : Templates} {k : Nat} {s : State} (hs : s.InAttempt P T k) :
    (epilog s).CallsAre s (EpilogStops T k) := by
  obtain ⟨-, rfl, rfl⟩ := hs
  refine Proc.CallsAre.after (l := []) ⟨_, _, progress_setPhase s (p := .epilog) (by decide)⟩
    (roundTrip_calls ?_ ?_ ?_ fun r t _ _ _ _ => Proc.callsAre_done ?_)
  · exact ⟨by simp, _, _, rfl, nofun⟩
  · exact ⟨by simp, _, _, rfl, nofun⟩
  · exact ⟨by simp, _, _, rfl, fun _ => nofun⟩
  · exact ⟨by simp [roundTripCalls], _, _, rfl, fun _ => nofun⟩

/-- In the calls `l` of attempts up to attempt `n`, which came to `o`, a refused byte is followed at once by the `STOP`
of its attempt, and, where that was accepted, by another attempt, or it was in the last, which was refused. -/
def RefusalsStop (P : Params) (T : Templates) (n : Nat) (o : PhaseOutcome) (l : List CallRecord) : Prop :=
  ∀ m r q rest, l = m ++ r :: q :: rest → RefusedByte P T r q →
    ∃ e after, rest = e :: after ∧ e.phase = .epilog ∧ e.attempt = r.attempt ∧ e.call = .sendCommands T.stop ∧
      (e.answer = .ok → r.attempt < n ∨ (r.attempt = n ∧ o = .nack))

section Stops

variable {P : Params} {T : Templates} {k n : Nat} {l l' : List CallRecord} {b e o : PhaseOutcome}

theorem refusalsStop_body_epilog (hbody : TripCalls P T (some b) l) (hattempt : ∀ r ∈ l, r.attempt = k)
    (hepilog : EpilogStops T k (some e) l') : RefusalsStop P T k (attemptOutcome b e) (l ++ l') := by
  intro m r q rest hl hbyte
  obtain ⟨hphase, a, after, hl', hok⟩ := hepilog
  obtain ⟨hr, hq⟩ := hbyte.phase_ne (p := .epilog) nofun nofun
  rcases append_eq_append_pair hl with ⟨rest', hpair, hrest⟩ | ⟨-, hpair⟩ | ⟨m', hpair⟩
  · obtain ⟨rfl, hnack⟩ := hbody.refused_last nofun hpair hbyte
    have hk : r.attempt = k := hattempt r (by simp [hpair])
    refine ⟨_, after, hrest.trans hl', rfl, hk.symm, rfl, fun ha => .inr ⟨hk, ?_⟩⟩
    exact attemptOutcome_eq_nack_iff.2 ⟨Option.some.inj hnack, fun he => hok ha (congrArg some he)⟩
  · exact absurd (hphase q (by simp [hpair])) hq
  · exact absurd (hphase r (by simp [hpair])) hr

/-- An attempt that was refused, and those that followed it. -/
theorem RefusalsStop.append (h : RefusalsStop P T k .nack l) (hlast : ∀ r ∈ l.getLast?, r.phase = .epilog)
    (hkn : k < n) (h' : RefusalsStop P T n o l') : RefusalsStop P T n o (l ++ l') := by
  intro m r q rest hl hbyte
  rcases append_eq_append_pair hl with ⟨rest', hpair, hrest⟩ | ⟨hpair, -⟩ | ⟨m', hpair⟩
  · obtain ⟨e, after, he, hphase, hattempt, hcall, hok⟩ := h m r q rest' hpair hbyte
    refine ⟨e, after ++ l', by rw [hrest, he, List.cons_append], hphase, hattempt, hcall, fun ha => .inl ?_⟩
    rcases hok ha with hlt | ⟨heq, -⟩ <;> omega
  · obtain ⟨hr, -⟩ := hbyte.phase_ne (p := .epilog) nofun nofun
    exact absurd (hlast r (by simp [hpair])) hr
  · exact h' m' r q rest hpair hbyte

end Stops

section StopsAttempts

variable {s : State}

theorem attemptOnce_refusalsStop (hb : s.Built) (hregs : s.RegistersOk) :
    (attemptOnce s).CallsAre s fun o l => ∀ x, o = some x →
      RefusalsStop s.par s.tpl s.attempt x l ∧ ∀ r ∈ l.getLast?, r.phase = .epilog := by
  have hs : s.InAttempt s.par s.tpl s.attempt := ⟨rfl, rfl, rfl⟩
  have hstops : (attemptOnce s).CallsAre s fun o l => ∀ x, o = some x → RefusalsStop s.par s.tpl s.attempt x l := by
    refine ((body_trips hs hb hregs).and (body_calls hs)).andThen (fun _ _ => nofun) fun b t l ht ⟨htrips, hcalls⟩ => ?_
    obtain ⟨hbody, -⟩ := hcalls
    refine (epilog_stops (ht.inAttempt hs)).andThen (fun _ _ => nofun) fun e u l' hu hepilog => ?_
    refine Proc.CallsAre.after (made_settleRead (attemptOutcome b e) u) (Proc.callsAre_done ?_)
    rintro _ ⟨⟩
    rw [List.append_nil, List.append_nil]
    exact refusalsStop_body_epilog htrips hbody.attempt hepilog
  refine (hstops.and (attemptOnce_calls s)).mono fun o l ⟨hstop, hattempt⟩ x hx => ⟨hstop x hx, fun r hr => ?_⟩
  subst hx
  obtain ⟨r', hr', hphase, -⟩ := hattempt.getLast?_epilog
  obtain rfl := Option.some.inj (hr'.symm.trans hr)
  exact hphase

theorem attemptsFuel_refusalsStop {budget fuel : Nat} (hb : s.Built) (hregs : s.RegistersOk)
    (hmax : budget ≤ Config.attemptsMax) :
    (attemptsFuel budget fuel s).Returns fun o t =>
      s.attempt ≤ t.attempt ∧ ∃ l, t.calls = s.calls ++ l ∧ RefusalsStop s.par s.tpl t.attempt o l := by
  induction fuel generalizing s with
  | zero => exact ⟨le_rfl, [], (List.append_nil _).symm, fun m r q rest hl => by simp at hl⟩
  | succ fuel ih =>
    have hattempt := Proc.Ensures.mono (attemptOnce_refusalsStop hb hregs) (fun _ _ => id) fun _ _ => trivial
    refine Proc.Returns.andThen hattempt fun o t ⟨l, hmade, hl⟩ => ?_
    obtain ⟨hstop, hlast⟩ := hl o rfl
    have hsame := hmade.attempt
    split
    · next hagain =>
      obtain ⟨rfl, hlt⟩ := hagain
      have hframe : BusFrame s (t.setAttempt (t.attempt + 1)) := busFrame_closed.trans hmade.frame (.setAttempt t _)
      obtain ⟨-, -, htpl, -, -, -, -, hpar⟩ := hframe.config
      have hrest := ih (hframe.built hb) ((hmade.registersOk hregs).setAttempt (hlt.trans_le hmax))
      rw [htpl, hpar] at hrest
      refine Proc.Ensures.mono hrest (fun o u ⟨hle, l', hcalls, hstop'⟩ => ?_) fun _ => id
      rw [State.setAttempt_attempt] at hle
      refine ⟨by omega, l ++ l', ?_, hstop.append hlast (by omega) hstop'⟩
      rw [hcalls, State.setAttempt_calls, hmade.calls, List.append_assoc]
    · exact ⟨hsame.ge, l, hmade.calls, hsame ▸ hstop⟩

theorem attempts_refusalsStop {budget : Nat} (hb : s.Built) (hregs : s.RegistersOk)
    (hmax : budget ≤ Config.attemptsMax) :
    (attempts budget s).Returns fun o t =>
      ∃ l, t.calls = s.calls ++ l ∧ RefusalsStop s.par s.tpl t.attempt o l :=
  Proc.Ensures.mono
    (attemptsFuel_refusalsStop (s := s.setAttempt 1) hb (hregs.setAttempt (by decide)) hmax)
    (fun _ _ => And.right) fun _ => id

/-- What a transaction that came back with `res` says of its refused bytes. -/
theorem run_refusalsStop (hb : s.Built) (hregs : s.RegistersOk) :
    (run s).Returns fun res t => ∃ o l, t.calls = s.calls ++ l ∧ RefusalsStop s.par s.tpl t.attempt o l ∧
      (o = .nack → t.attempt = 3 ∧ res = .err .negativeAcknowledgement) :=
  Proc.Returns.andThen ((attempts_refusalsStop hb hregs le_rfl).and (attempts_nack (by decide) s))
    fun o t ⟨⟨l, hcalls, hstop⟩, hnack⟩ => ⟨o, l, hcalls, hstop, fun ho => ⟨(hnack ho).1, by rw [ho]; rfl⟩⟩

theorem runPoll_refusalsStop (hb : s.Built) (hregs : s.RegistersOk) :
    (runPoll s).Returns fun _ t => ∃ o l, t.calls = s.calls ++ l ∧ RefusalsStop s.par s.tpl t.attempt o l :=
  Proc.Returns.andThen (attempts_refusalsStop hb hregs (by decide)) fun o _ ⟨l, hcalls, hstop⟩ => ⟨o, l, hcalls, hstop⟩

end StopsAttempts

/-! #### The statement -/

/-- Where `NegativeAcknowledgement` is no error of an argument, three attempts were refused, and none of a poll. -/
theorem exec_negativeAcknowledgement {i : Instr} {s t : State} (h : exec i s = .next t)
    (hempty : s.par.errEmpty ≠ .negativeAcknowledgement)
    (hres : t.responses = s.responses ++ [.err .negativeAcknowledgement]) :
    polls i = false ∧ RefusedThroughout 3 s t := by
  obtain ⟨-, p, u, hp, hu, rfl⟩ := exec_busError h hres nofun nofun
  cases hp with
  | rejected hk =>
    rw [Proc.run_done] at hu
    cases hu
    rcases hk with (hk | hk) | ⟨hk, -⟩
    · cases hk
    · exact absurd hk.symm hempty
    · cases hk
  | transaction x _ hi =>
    obtain ⟨hattempt, hack, hrefused⟩ := (Proc.ensures_of_run_done hu).1 (run_refusedThroughout (s.setTxn x)) rfl
    exact ⟨hi, hattempt, hack, hrefused⟩
  | poll x _ _ => cases (Proc.ensures_of_run_done hu).1 (runPoll_errors _) _ rfl

theorem State.Inv.built {s : State} (hs : s.Inv) (hc : s.configured = true) : s.Built := by
  obtain ⟨hpar, -, -, hconfig, -⟩ := hs
  obtain ⟨-, htpl, -⟩ := hconfig hc
  exact ⟨hpar, htpl⟩

/-- A call in the body of an attempt is that of a bus operation. -/
theorem isBusOp_of_call {i : Instr} {s t : State} {l : List CallRecord} (h : exec i s = .next t)
    (hpending : t.pending = none) (hcalls : t.calls = s.calls ++ l) {r : CallRecord} (hr : r ∈ l)
    (hphase : r.phase ≠ .idle) : i.isBusOp = true := by
  cases ho : operationOf i s with
  | none =>
    obtain ⟨c, hc⟩ := exec_of_command ((operationOf_eq_none_iff i s).1 ho) s
    cases hc.symm.trans h
    rw [List.append_right_eq_self.1 hcalls.symm] at hr
    cases hr
  | some o =>
    cases hi : i.isBusOp with
    | true => rfl
    | false =>
      obtain ⟨p, res, u, hp, hu, rfl⟩ := exec_returned ho (operationOf_manages hi ho) h hpending
      obtain ⟨⟨-, l', hcalls', hrest⟩, -⟩ := (Proc.ensures_of_run_done hu).1 hp
      obtain rfl : l = l' := List.append_cancel_left (hcalls.symm.trans hcalls')
      obtain ⟨hidle, -⟩ := free_of_exec_next (format_of_operationOf ho) h
      exact absurd ((hrest r hr).trans hidle) hphase

/-- What an operation that came back says of its refused bytes. -/
theorem exec_refusalsStop {i : Instr} {s t : State} {l : List CallRecord} (hs : s.Inv) (h : exec i s = .next t)
    (hpending : t.pending = none) (hcalls : t.calls = s.calls ++ l) (hi : i.isBusOp = true) :
    ∃ o, RefusalsStop s.par s.tpl t.attempt o l ∧ (o = .nack → polls i = false →
      t.attempt = 3 ∧ t.responses = s.responses ++ [.err .negativeAcknowledgement]) := by
  obtain ⟨hregs, -⟩ := (State.inv_iff s).1 hs
  obtain ⟨o, ho⟩ := operationOf_of_isBusOp hi s
  obtain ⟨p, res, u, hp, hu, rfl⟩ := exec_returned ho (operationOf_checked hi ho) h hpending
  cases hp with
  | rejected _ =>
    rw [Proc.run_done] at hu
    cases hu
    rw [List.append_right_eq_self.1 hcalls.symm]
    exact ⟨.transport, fun m r q rest hl => by simp at hl, nofun⟩
  | transaction x hc _ =>
    obtain ⟨o, l', hcalls', hstop, hnack⟩ :=
      (Proc.ensures_of_run_done hu).1 (run_refusalsStop (s := s.setTxn x) (hs.built hc) hregs)
    obtain rfl : l = l' := List.append_cancel_left (hcalls.symm.trans hcalls')
    refine ⟨o, hstop, fun ho _ => ?_⟩
    obtain ⟨hattempt, rfl⟩ := hnack ho
    have hsame : u.responses = s.responses :=
      ((Proc.ensures_of_run_done hu).1 (run_frame (s.setTxn x)).returns).responses
    exact ⟨hattempt, congrArg (· ++ _) hsame⟩
  | poll x hc hpolls =>
    obtain ⟨o, l', hcalls', hstop⟩ :=
      (Proc.ensures_of_run_done hu).1 (runPoll_refusalsStop (s := s.setTxn x) (hs.built hc) hregs)
    obtain rfl : l = l' := List.append_cancel_left (hcalls.symm.trans hcalls')
    exact ⟨o, hstop, fun _ hi => nomatch hpolls.symm.trans hi⟩

/-- Settles O54: the retry loop ends in a refusal only after its last attempt, and a refused byte is the last trip of
its body, which the `STOP` follows. -/
theorem negativeAcknowledgementTakesThreeRefusals : Obligations.NegativeAcknowledgementTakesThreeRefusals := by
  intro i s t l h hcalls
  refine ⟨fun hempty hres => ?_, fun hs hpending m r q rest hl hbyte => ?_⟩
  · obtain ⟨hpolls, hattempt, hack, l', hcalls', hrefused⟩ := exec_negativeAcknowledgement h hempty hres
    obtain rfl : l = l' := List.append_cancel_left (hcalls.symm.trans hcalls')
    obtain ⟨hpoll, hsPoll⟩ := (polls_eq_false_iff i).1 hpolls
    exact ⟨hattempt, hack, hrefused, hpoll, hsPoll⟩
  · obtain ⟨hphase, -⟩ := hbyte.phase_ne (p := .idle) nofun nofun
    have hi := isBusOp_of_call h hpending hcalls (r := r) (by simp [hl]) hphase
    obtain ⟨o, hstop, hnack⟩ := exec_refusalsStop hs h hpending hcalls hi
    obtain ⟨e, after, hrest, hepilog, hattempt, hcall, hok⟩ := hstop m r q rest hl hbyte
    refine ⟨e, after, hrest, hepilog, hattempt, hcall, fun ha hpoll hsPoll => ?_⟩
    refine (hok ha).imp_right fun ⟨heq, ho⟩ => ?_
    obtain ⟨hthree, hres⟩ := hnack ho ((polls_eq_false_iff i).2 ⟨hpoll, hsPoll⟩)
    exact ⟨heq.trans hthree, hres⟩

end Sys2Proof.Machine
end

section
/-! PROOFS. The reset and hazards family (spec/70_reset_and_hazards.md): the bus is idle after an operation (R307), and
no read runs without a chunk size (R308). -/

namespace Sys2Proof.Machine

/-! ### The idle bus (R307) -/

/-- Where the outcome is no transport failure, the bus is idle. -/
def IdleUnlessTransport (o : PhaseOutcome) (t : State) : Prop := o ≠ .transport → t.BusIdle

section Idle

variable {s : State}

/-- A `STOP` that is accepted leaves the bus idle, whatever its reply (R136, R162). -/
theorem tripped_stop_busIdle (hs : s.Built) (n budget : Nat) (r : Bytes) (sends : List Bool) (receives : List Bytes) :
    (tripped s.tpl.stop n budget r sends receives s).BusIdle := by
  obtain ⟨hpar, htpl⟩ := hs
  have hidle := s.ce.execute_stop_idle hpar
  rw [← htpl] at hidle
  exact hidle

theorem epilog_idleUnlessTransport (hs : s.Built) : (epilog s).Returns IdleUnlessTransport :=
  roundTrip_returns_tripped (fun _ h => absurd rfl h) fun r sends receives _ _ =>
    tripped_stop_busIdle (s := s.setPhase .epilog) hs _ _ r sends receives

theorem attemptOutcome_of_epilog_transport (b : PhaseOutcome) : attemptOutcome b .transport = .transport :=
  if_pos (.inr rfl)

theorem attemptOnce_idleUnlessTransport (hs : s.Built) : (attemptOnce s).Returns IdleUnlessTransport :=
  (body_keeps busFrame_closed s).returns.andThen fun b t ht =>
    (epilog_idleUnlessTransport (ht.built hs)).andThen fun e u hu ho => by
      have hepilog : e ≠ .transport := by
        rintro rfl
        exact ho (attemptOutcome_of_epilog_transport b)
      rw [State.BusIdle, settleRead_ce]
      exact hu hepilog

/-- The retry loop leaves the lines as its last attempt did; where no attempt is left, the one before was refused, its
`STOP` delivered. -/
theorem attemptsFuel_idleUnlessTransport {budget fuel : Nat} (hs : s.Built) (hlast : fuel = 0 → s.BusIdle) :
    (attemptsFuel budget fuel s).Returns IdleUnlessTransport := by
  induction fuel generalizing s with
  | zero => exact fun _ => hlast rfl
  | succ fuel ih =>
    have hattempt := (attemptOnce_idleUnlessTransport hs).and (attemptOnce_keeps busFrame_closed s).returns
    refine hattempt.andThen fun o t ⟨hidle, hframe⟩ => ?_
    split
    · next hagain =>
      obtain ⟨rfl, -⟩ := hagain
      exact ih (s := t.setAttempt (t.attempt + 1)) (hframe.built hs) fun _ => hidle nofun
    · exact hidle

/-- Attempts, one at least, whose end is answered by `finish`. -/
theorem attempts_busIdle (hs : s.Built) {budget : Nat} (hbudget : budget ≠ 0) {finish : PhaseOutcome → Result}
    (hfinish : finish .transport = .err .transportError) :
    ((attempts budget s).andThen fun o t => .done (finish o) t).Returns fun r t =>
      r ≠ .err .transportError → t.BusIdle :=
  Proc.Returns.andThen (attemptsFuel_idleUnlessTransport (s := s.setAttempt 1) hs fun h => absurd h hbudget)
    fun _ _ hidle hr => hidle fun ho => hr (ho ▸ hfinish)

end Idle

/-- Settles O51: an attempt is a transport failure unless its `STOP` was accepted, and the `STOP` is the last buffer
that an operation sends. -/
theorem busIsIdleAfterAnOperation : Obligations.BusIsIdleAfterAnOperation := by
  intro i s t r hs _ hi h hcalls hres hr
  obtain ⟨o, ho⟩ := operationOf_of_isBusOp hi s
  obtain ⟨p, u, hp, hu, rfl⟩ := exec_responded ho (operationOf_checked hi ho) h hres
  cases hp with
  | rejected _ =>
    rw [Proc.run_done] at hu
    cases hu
    exact absurd rfl hcalls
  | transaction x hc _ =>
    exact (Proc.ensures_of_run_done hu).1 (attempts_busIdle (s := s.setTxn x) (hs.built hc) (by decide) rfl) hr
  | poll x hc _ =>
    exact (Proc.ensures_of_run_done hu).1 (attempts_busIdle (s := s.setTxn x) (hs.built hc) (by decide) rfl) hr

/-! ### No read without a chunk size (R308) -/

/-- The chunk size is looked at once the arguments are valid (notes/assumptions/23.md). -/
theorem outcome_of_noChunks {s : State} (hs : s.free) {e : Option ErrKind} (he : e = none) (hc : s.chunkSize ≤ 0)
    (k : Operation) :
    (whenFree s (validated e s (needsChunks s k))).outcome = .refused .chunkSizeNotPositive := by
  have hnone : ¬1 ≤ s.chunkSize := by omega
  rw [whenFree_of_free hs, he, validated, needsChunks, if_neg hnone, Operation.outcome_refused]

/-- Settles O59: the arguments pass every check, so the refusal is that of the chunk size. -/
theorem noChunkSizeNoRead : Obligations.NoChunkSizeNoRead := by
  intro s a n out hs hconf ha hn hc
  refine ⟨?_, fun hout hmax => ?_⟩
  · exact outcome_of_noChunks hs (validateRead_eq_none_iff.2 ⟨ha, hn, hconf⟩) hc _
  · exact outcome_of_noChunks hs (validateExchange_eq_none_iff.2 ⟨ha, hout, hn, hmax, hconf⟩) hc _

end Sys2Proof.Machine
end

section
/-! PROOFS. The request placed by the model's own way in (notes/assumptions/8.md). -/

namespace Sys2Proof.Machine

/-- A placed request is the next one. -/
theorem placeRequest_requests (request : Bytes) (s : State) :
    (placeRequest request s).requests = request :: s.requests := rfl

theorem placeRequest_pending (request : Bytes) (s : State) : (placeRequest request s).pending = none := rfl

/-- Taking a placed request undoes the placement, but for the outstanding call, which is gone. -/
theorem placeRequest_setRequests (request : Bytes) (s : State) :
    (placeRequest request s).setRequests s.requests = s.setPending none := rfl

/-- A placed request that holds an instruction is what the next step runs, whatever the engine waited for. -/
theorem step_placeRequest {request : Bytes} {i : Instr} (h : decode request = some i) (s : State) :
    step (placeRequest request s) = exec i (s.setPending none) := by
  rw [step_of_request (placeRequest_pending request s) (placeRequest_requests request s) h, placeRequest_setRequests]

/-- Settles O6: a table word is placed as its request. -/
theorem fetchWordIsRunNext : Obligations.FetchWordIsRunNext :=
  fun s _ _ _ h => step_placeRequest h s

end Sys2Proof.Machine
end
